-- ==== Sys2Proof/Word.lean ====
section
/-! DEFINITION. The word and byte types of the register interface and their plainest arithmetic. -/
namespace Sys2Proof

/-- A register of the controller, the command word, an address, a buffer word: 32 bits (R62, R100). -/
abbrev Word := BitVec 32

/-- A payload byte, a command id, a LENGTH field, a byte of the flash array. -/
abbrev Byte := BitVec 8

/-- One `writeWord`: the register's address and the value (R61). -/
abbrev RegWrite := Word × Word

/-- `ceilDiv(n, m) = (n + m - 1) / m` (R11). -/
def divUp (n m : Nat) : Nat := (n + m - 1) / m

/-- `BUF_WORDS` (R7): fixed by the source. -/
abbrev bufWords : Nat := 64

/-- `BUF_BYTES = 4 * BUF_WORDS` (R7): fixed by the source. -/
abbrev bufBytes : Nat := 256

end Sys2Proof
end

