-- ==== Sys2Proof/Config.lean ====
section
/-! DEFINITION. The configuration record `Cfg` of R7, the reference configuration of R9, and the free
values: opaque constants for what the spec leaves open. -/
namespace Sys2Proof

/-- The two completion signals (R160): the action bit, the status-idle bit. -/
inductive Signal where
  | act
  | idle
  deriving DecidableEq, Repr

/-- `ERASE_POLICY` (R7, R277): the host's erase policy of a write. -/
inductive ErasePolicy where
  | coveredSectors
  | wholeChip
  deriving DecidableEq, Repr

/-- One record of the device table (R30); sizes in KB. -/
structure DeviceSpec where
  versionId : Word
  name : String
  sectorKB : Nat
  flashKB : Nat
  deriving DecidableEq, Repr

/-- The cause of a protocol/state failure (R25, R301). -/
inductive Cause where
  | notProbed
  | protectedSector
  | badLength
  deriving DecidableEq, Repr

/-- The values of the result register (R25, R301). -/
inductive Res where
  | ok
  | transport
  | busy
  | protocol (c : Cause)
  deriving DecidableEq, Repr, Inhabited

/-- The configuration record (R7). Every field is a quantity the hardware needs and the source does
not give. `sectorSize` and `flashSize` here are the geometry of the physical device; what the engine
knows of it stands in State, set by probe. `bulkFirst` is the write strategy (D38), `deviceTable` the
static table of R30, `layoutKnown` whether the device's status registers follow one of the two layouts
(R362, log 32). -/
structure Cfg where
  actBit : Nat
  pollBit : Nat
  lengthLsb : Nat
  cmdAddrBit : Nat
  cmdWrBit : Nat
  cmdDataBit : Nat
  cmdIdLsb : Nat
  aCmd : Word
  aAddr : Word
  aCfg : Word
  aCache : Word
  aStatus : Word
  aId : Word
  aBuf0 : Word
  idleBit : Nat
  aMfr : Word
  mfrLsb : Nat
  mfrVendorA : Byte
  idWren : Byte
  idSe : Byte
  idCe : Byte
  idPp : Byte
  idWrsr1 : Byte
  idWrsr2 : Byte
  wrSe : Bool
  wrCe : Bool
  pWren : Bool
  pSe : Bool
  pCe : Bool
  pPp : Bool
  pWrsr : Bool
  tWren : Nat
  tSe : Nat
  tCe : Nat
  tPp : Nat
  tWrsr : Nat
  pkWrsr : Signal
  ppWrenPrefix : Bool
  erasedByte : Byte
  sectorSize : Nat
  flashSize : Nat
  progChunk : Nat
  erasePolicy : ErasePolicy
  bulkFirst : Bool
  deviceTable : List DeviceSpec
  layoutKnown : Bool
  deriving DecidableEq, Repr

namespace Config

/-- FREE VALUE. The `ok` of the n-th answer of the Register Interface when no answer is given from
outside (R78). -/
opaque freeOk : Nat → Bool

/-- FREE VALUE. The value of the n-th answer (R78), and what a register holds after the n-th
transaction, a failed write (R81). -/
opaque freeWord : Nat → Word

/-- FREE VALUE. The reference environment's n-th choice of `busy` (R80). -/
opaque freeBusy : Nat → Nat

/-- FREE VALUE. The byte at an offset of the flash array whose content the spec leaves open since
draw n (U7, U11, U13; content at reset). -/
opaque freeByte : Nat → Nat → Byte

/-- FREE VALUE. A device status register (1 or 2) whose content the spec leaves open since draw n (U13). -/
opaque freeSr : Nat → Nat → Byte

/-- FREE VALUE. The version ID of the one known device-table entry (R288, N21: not in the source). -/
opaque refVersionId : Word

/-- FREE VALUES. The words probe writes to the cache-control and config registers (N12, N13). -/
opaque cacheOffWord : Word
opaque cacheOnWord : Word
opaque clockWord : Word

/-- FREE VALUE. Whether the read cache is on after the n-th transaction, a failed write of the
cache-control register (R45, R81). -/
opaque freeCacheOn : Nat → Bool

/-- FREE VALUE. Byte `i` of what a write takes, at draw n, from a buffer that does not hold exactly
`count` bytes (R273, R276; log 44). -/
opaque freeCallerByte : Nat → Nat → Byte

/-- FREE VALUE. What a stub of the public interface returns (R287, N27). -/
opaque freeRes : Nat → Res

end Config

/-- The reference configuration `CFG_REF` (R9): the column "reference" of R7. The device table holds
the one entry whose sizes the source gives (R288). DESIGN CHOICE, because R7's column has no value: the
slow path alone (`bulkFirst`, log 38), the variant name "reference" (log 39), a device of a known layout
(`layoutKnown`, log 32). -/
def cfgRef : Cfg where
  actBit := 31
  pollBit := 30
  lengthLsb := 16
  cmdAddrBit := 10
  cmdWrBit := 9
  cmdDataBit := 8
  cmdIdLsb := 0
  aCmd := 0x00000000#32
  aAddr := 0x00000004#32
  aCfg := 0x00000008#32
  aCache := 0x0000000C#32
  aStatus := 0x00000010#32
  aId := 0x00000014#32
  aBuf0 := 0x00000100#32
  idleBit := 0
  aMfr := 0x00000010#32
  mfrLsb := 8
  mfrVendorA := 0xEF#8
  idWren := 0x06#8
  idSe := 0x20#8
  idCe := 0xC7#8
  idPp := 0x02#8
  idWrsr1 := 0x01#8
  idWrsr2 := 0x31#8
  wrSe := false
  wrCe := false
  pWren := true
  pSe := true
  pCe := true
  pPp := true
  pWrsr := true
  tWren := 100
  tSe := 300
  tCe := 3000
  tPp := 100
  tWrsr := 100
  pkWrsr := .idle
  ppWrenPrefix := true
  erasedByte := 0xFF#8
  sectorSize := 4096
  flashSize := 2097152
  progChunk := 256
  erasePolicy := .coveredSectors
  bulkFirst := false
  deviceTable := [⟨Config.refVersionId, "reference", 4, 2048⟩]
  layoutKnown := true

end Sys2Proof
end

