-- ==== Sys2Proof/Syntax.lean ====
section
/-! DEFINITION. The instructions (R110), the instruction descriptor, the requests (R113), the
elements of the engine's queue (R22) and the host's calls (R270). -/
namespace Sys2Proof

/-- The seven mnemonics of R110. -/
inductive Mnemonic where
  | WREN
  | SE
  | CE
  | PP
  | WRSR1
  | WRSR2
  | WRSR1W
  deriving DecidableEq, Repr

/-- The instructions of the block: one constructor per row of the command table (R110), with the
operands of R118. -/
inductive Instr where
  | wren
  | se (a : Word)
  | ce
  | pp (a : Word) (p : List Byte)
  | wrsr1 (b : Byte)
  | wrsr2 (b : Byte)
  | wrsr1w (b0 b1 : Byte)
  deriving DecidableEq, Repr

/-- The instruction descriptor (10_state.md section 2): what the encoder and the poller take. -/
structure Ins where
  name : Mnemonic
  id : Byte
  hasAddr : Bool
  addr : Word
  hasWr : Bool
  hasData : Bool
  poll : Bool
  payload : List Byte
  pk : Signal
  timeout : Nat
  deriving DecidableEq, Repr

/-- The manufacturer buckets (R244). -/
inductive Bucket where
  | vendorA
  | generic
  deriving DecidableEq, Repr

/-- A request of the host to the engine (R113). `single` is an instruction issued singly, outside any
expansion (R307, R351). -/
inductive Request where
  | encode (id : Byte) (hasAddr hasWr hasData poll : Bool) (n : Nat)
  | stage (p : List Byte)
  | waitAct (t : Nat)
  | waitIdle (t : Nat)
  | writeEnable
  | eraseSector (offset : Word)
  | eraseChip
  | pageProgram (address : Word) (p : List Byte)
  | quadEnable
  | protectDisable
  | single (i : Instr)
  deriving DecidableEq, Repr

/-- An element of the engine's queue `q` (R22): an instruction (its descriptor is a function of it and
of the configuration), the manufacturer step `MFR?` (R243), the poller alone (R114), or a command
word that is no instruction of this block (R111), which only `withFetchWord` puts there. -/
inductive Elem where
  | ins (i : Instr)
  | mfr
  | poll (pk : Signal) (t : Nat)
  | illegal (w : Word)
  deriving DecidableEq, Repr

/-- A call of the host: a bare request, or a public operation (R270). -/
inductive Call where
  | request (r : Request)
  | probe
  | autoProbe
  | erase (firstSector lastSector : Nat)
  | massErase
  | write (buffer : List Byte) (offset count : Nat)
  | protectCheck
  | protect (set : Bool) (first last : Nat)
  | getInfo
  deriving DecidableEq, Repr

/-- One move of the host inside a call: submit a request; the moves of probe (R285); the moves of a
write: read a fringe into the scratch buffer, copy the caller's buffer (R276), transfer (R278); a request
whose flash offset no 32-bit operand holds (R36, R113, log 28). -/
inductive Move where
  | submit (r : Request)
  | readId
  | cacheOff
  | clockConfig
  | cacheOn
  | setProbed
  | fringe (start len : Nat)
  | copy (p : List Byte)
  | transfer (start : Nat)
  | unaddressable
  deriving DecidableEq, Repr

end Sys2Proof
end

