-- ==== Sys2Proof/WellFormed.lean ====
section
/-! DEFINITION. Well-formed configurations (`WF_CFG`, R8), instructions and requests. -/
namespace Sys2Proof

/-- A field of the command word: its lowest bit and its width. -/
structure BitField where
  lsb : Nat
  width : Nat
  deriving DecidableEq, Repr

/-- The seven named fields of the command word (R101, R102), in the source's listing order. -/
def Cfg.fields (c : Cfg) : List BitField :=
  [⟨c.actBit, 1⟩, ⟨c.pollBit, 1⟩, ⟨c.lengthLsb, 8⟩, ⟨c.cmdAddrBit, 1⟩, ⟨c.cmdWrBit, 1⟩,
   ⟨c.cmdDataBit, 1⟩, ⟨c.cmdIdLsb, 8⟩]

/-- The field lies within bits 31..0. -/
abbrev BitField.inWord (f : BitField) : Prop := f.lsb + f.width ≤ 32

/-- Two fields share no bit. -/
abbrev BitField.disjoint (f g : BitField) : Prop :=
  f.lsb + f.width ≤ g.lsb ∨ g.lsb + g.width ≤ f.lsb

/-- R8 (a): the seven fields lie within the word and are pairwise disjoint. -/
def Cfg.wfLayout (c : Cfg) : Bool :=
  decide ((∀ f ∈ c.fields, f.inWord) ∧ c.fields.Pairwise BitField.disjoint)

/-- The six single registers' addresses (R32). -/
def Cfg.singles (c : Cfg) : List Word :=
  [c.aCmd, c.aAddr, c.aCfg, c.aCache, c.aStatus, c.aId]

/-- R8 (b): the addresses are multiples of 4, fit in 32 bits and are pairwise distinct. -/
def Cfg.wfAddresses (c : Cfg) : Bool :=
  c.singles.all (fun a => decide (a.toNat % 4 = 0 ∧
      (a.toNat < c.aBuf0.toNat ∨ c.aBuf0.toNat + 4 * bufWords ≤ a.toNat))) &&
    decide (c.aBuf0.toNat % 4 = 0 ∧ c.aBuf0.toNat + 4 * bufWords ≤ 2 ^ 32 ∧ c.singles.Nodup)

/-- R8 (c), with R7's range of `IDLE_BIT`: the manufacturer byte lies in one of the registers. -/
def Cfg.wfMfr (c : Cfg) : Bool :=
  decide (c.aMfr ∈ c.aBuf0 :: c.singles ∧ c.mfrLsb ≤ 24 ∧ c.idleBit < 32)

/-- R8 (d): the six command ids are pairwise distinct. -/
def Cfg.wfIds (c : Cfg) : Bool :=
  decide ([c.idWren, c.idSe, c.idCe, c.idPp, c.idWrsr1, c.idWrsr2].Nodup)

/-- R8 (e), for the device and for every record of the table that probe may take the geometry from
(log 31). -/
def Cfg.wfGeometry (c : Cfg) : Bool :=
  decide (0 < c.sectorSize ∧ c.flashSize % c.sectorSize = 0 ∧
    ∀ d ∈ c.deviceTable, 0 < d.sectorKB ∧ d.flashKB % d.sectorKB = 0)

/-- R8 (f). -/
def Cfg.wfChunk (c : Cfg) : Bool := decide (1 ≤ c.progChunk ∧ c.progChunk ≤ bufBytes)

/-- `WF_CFG` (R8). -/
def Cfg.wf (c : Cfg) : Bool :=
  c.wfLayout && c.wfAddresses && c.wfMfr && c.wfIds && c.wfGeometry && c.wfChunk

/-- An instruction is well formed when its payload fits the buffer (R116, R361); every other operand
may take every value of its width. -/
def Instr.wf : Instr → Bool
  | .wren | .se _ | .ce | .wrsr1 _ | .wrsr2 _ | .wrsr1w _ _ => true
  | .pp _ p => decide (p.length ≤ bufBytes)

/-- A request lies in the domain of what it asks for: `encode` and `stage` have no value beyond the
buffer's size (R116, U9). A page program beyond it is a request the engine answers (R305). -/
def Request.wf : Request → Bool
  | .encode _ _ _ _ _ n => decide (n ≤ bufBytes)
  | .stage p => decide (p.length ≤ bufBytes)
  | .single i => i.wf
  | .waitAct _ | .waitIdle _ | .writeEnable | .eraseSector _ | .eraseChip | .pageProgram _ _
  | .quadEnable | .protectDisable => true

end Sys2Proof
end

