-- ==== Sys2Proof/Decode.lean ====
section
/-! DEFINITION. The command word: reading its fields (R115), the command table (R110), the decoder of
a staged instruction, and after it the encoder (R104) with payload staging (R109). -/
namespace Sys2Proof

/-! ### Bit fields -/

/-- `w[lsb+7 : lsb]` (R10). -/
def byteAt (w : Word) (lsb : Nat) : Byte := w.extractLsb' lsb 8

/-- The mask of one bit, or the empty mask. -/
def bitMask (b : Bool) (i : Nat) : Word := if b then 1#32 <<< i else 0#32

/-- The seven fields of a command word, as a value with named accessors (R33, R142). -/
structure Fields where
  act : Bool
  poll : Bool
  len : Byte
  addr : Bool
  wr : Bool
  data : Bool
  id : Byte
  deriving DecidableEq, Repr

/-- `dec(w)` (R115). -/
def dec (c : Cfg) (w : Word) : Fields where
  act := w.getLsbD c.actBit
  poll := w.getLsbD c.pollBit
  len := byteAt w c.lengthLsb
  addr := w.getLsbD c.cmdAddrBit
  wr := w.getLsbD c.cmdWrBit
  data := w.getLsbD c.cmdDataBit
  id := byteAt w c.cmdIdLsb

/-- `FIELDMASK`: the or of the seven field masks (R143 (b)). -/
def fieldMask (c : Cfg) : Word :=
  bitMask true c.actBit ||| bitMask true c.pollBit ||| (0xFF#32 <<< c.lengthLsb) |||
    bitMask true c.cmdAddrBit ||| bitMask true c.cmdWrBit ||| bitMask true c.cmdDataBit |||
    (0xFF#32 <<< c.cmdIdLsb)

/-! ### The command table -/

/-- The fixed part of a row of the command table (R110). -/
structure Row where
  id : Byte
  hasAddr : Bool
  hasWr : Bool
  hasData : Bool
  poll : Bool
  pk : Signal
  timeout : Nat
  deriving DecidableEq, Repr

/-- The command table (R110). -/
def row (c : Cfg) : Mnemonic → Row
  | .WREN => ⟨c.idWren, false, false, false, c.pWren, .act, c.tWren⟩
  | .SE => ⟨c.idSe, true, c.wrSe, false, c.pSe, .act, c.tSe⟩
  | .CE => ⟨c.idCe, false, c.wrCe, false, c.pCe, .act, c.tCe⟩
  | .PP => ⟨c.idPp, true, true, true, c.pPp, .act, c.tPp⟩
  | .WRSR1 => ⟨c.idWrsr1, false, true, true, c.pWrsr, c.pkWrsr, c.tWrsr⟩
  | .WRSR2 => ⟨c.idWrsr2, false, true, true, c.pWrsr, c.pkWrsr, c.tWrsr⟩
  | .WRSR1W => ⟨c.idWrsr1, false, true, true, c.pWrsr, c.pkWrsr, c.tWrsr⟩

/-- The LENGTH values a row allows (R110, column "payload"; R105, R106). -/
def lengthAllowed : Mnemonic → Byte → Bool
  | .PP, _ => true
  | .WRSR1W, l => l == 1#8
  | .WREN, l | .SE, l | .CE, l | .WRSR1, l | .WRSR2, l => l == 0#8

/-- The decoded tuple is one of the row's (R115). -/
def rowMatches (c : Cfg) (f : Fields) (m : Mnemonic) : Bool :=
  f.act && (f.poll == (row c m).poll) && lengthAllowed m f.len && (f.addr == (row c m).hasAddr) &&
    (f.wr == (row c m).hasWr) && (f.data == (row c m).hasData) && (f.id == (row c m).id)

/-- The rows of the table, in its order. -/
def mnemonics : List Mnemonic := [.WREN, .SE, .CE, .PP, .WRSR1, .WRSR2, .WRSR1W]

/-- Why the decoder refuses. -/
inductive DecodeError where
  /-- no write at all -/
  | empty
  /-- the last write is not to the command register (R73) -/
  | noCommandWrite
  /-- ACT = 0: never produced (R111 (b)) -/
  | actClear
  /-- an unnamed bit is set: never produced (R111 (c)) -/
  | unnamedBit
  /-- the fields are those of no row (R115) -/
  | notOfThisBlock
  /-- CMDADDR is set and no address write leads (R73) -/
  | noAddressWrite
  /-- the buffer writes are not to buffer[0], buffer[1], ... in ascending order (R73) -/
  | badBufferWrite
  /-- the buffer words are not the staging of LENGTH's number of bytes (R109) -/
  | badStaging
  deriving DecidableEq, Repr

/-- The row of a command word, or the reason it is none of this block's (R111, R115). A word with an
unnamed bit set is none, though R115's tuple does not show the bit (log 50). -/
def commandOf (c : Cfg) (w : Word) : Except DecodeError Mnemonic :=
  if !(dec c w).act then .error .actClear
  else if w &&& ~~~(fieldMask c) ≠ 0#32 then .error .unnamedBit
  else match mnemonics.find? (rowMatches c (dec c w)) with
    | some m => .ok m
    | none => .error .notOfThisBlock

/-! ### Operands -/

/-- The address of `buffer[k]` (R61, D9). -/
def bufAddr (c : Cfg) (k : Nat) : Word := c.aBuf0 + BitVec.ofNat 32 (4 * k)

/-- Byte `i` of a list of buffer words: lane `i mod 4` of word `i / 4` (R63). -/
def laneOf (ws : List Word) (i : Nat) : Byte := byteAt (ws[i / 4]?.getD 0#32) (8 * (i % 4))

/-- The first `n` bytes of a list of buffer words (R63). -/
def unstage (ws : List Word) (n : Nat) : List Byte := (List.range n).map (laneOf ws)

/-- `byteAt(p, i)` of R109: 0 beyond the payload (D8). -/
def payloadByte (p : List Byte) (i : Nat) : Byte := p[i]?.getD 0#8

/-- Word `k` of the staging of a payload (R109). -/
def stageWord (p : List Byte) (k : Nat) : Word :=
  (payloadByte p (4 * k)).setWidth 32 ||| ((payloadByte p (4 * k + 1)).setWidth 32 <<< 8) |||
    ((payloadByte p (4 * k + 2)).setWidth 32 <<< 16) ||| ((payloadByte p (4 * k + 3)).setWidth 32 <<< 24)

/-- `stageWords(p)` (R109). -/
def stageWords (p : List Byte) : List Word := (List.range (divUp p.length 4)).map (stageWord p)

/-- An instruction from its row and its operands. -/
def assemble (m : Mnemonic) (a : Word) (p : List Byte) : Option Instr :=
  match m, p with
  | .WREN, _ => some .wren
  | .SE, _ => some (.se a)
  | .CE, _ => some .ce
  | .PP, p => some (.pp a p)
  | .WRSR1, [b] => some (.wrsr1 b)
  | .WRSR2, [b] => some (.wrsr2 b)
  | .WRSR1W, [b0, b1] => some (.wrsr1w b0 b1)
  | .WRSR1, _ | .WRSR2, _ | .WRSR1W, _ => none

/-- The byte count a word and `nWords` buffer writes stand for: LENGTH + 1, but 0 where the word has
LENGTH = 0 and nothing is staged (R106). -/
def byteCount (hasData : Bool) (len : Byte) (nWords : Nat) : Nat :=
  if !hasData then 0 else if len = 0#8 ∧ nWords = 0 then 0 else len.toNat + 1

/-- Split off the address write of an instruction that has one (R73). -/
def takeAddress (c : Cfg) (hasAddr : Bool) (ws : List RegWrite) : Option (Word × List RegWrite) :=
  match hasAddr, ws with
  | false, ws => some (0#32, ws)
  | true, (a, v) :: ws => if a = c.aAddr then some (v, ws) else none
  | true, [] => none

/-- Read the buffer writes of a row's instruction. -/
def decodePayload (c : Cfg) (m : Mnemonic) (len : Byte) (a : Word) (ws : List RegWrite) :
    Except DecodeError Instr :=
  let words := ws.map Prod.snd
  let p := unstage words (byteCount (row c m).hasData len words.length)
  if ws.map Prod.fst ≠ (List.range ws.length).map (bufAddr c) then .error .badBufferWrite
  else if words ≠ stageWords p then .error .badStaging
  else match assemble m a p with
    | some i => .ok i
    | none => .error .badStaging

/-- The decoder: the register writes of one instruction, `[W(A_ADDR, a)]? [W(A_BUF0 + 4k, w_k)]*
W(A_CMD, w)` (R193), read back to the instruction (R119). Total; it refuses by name. -/
def decode (c : Cfg) (ws : List RegWrite) : Except DecodeError Instr :=
  match ws.getLast? with
  | none => .error .empty
  | some (a, w) =>
    if a ≠ c.aCmd then .error .noCommandWrite
    else match commandOf c w with
      | .error e => .error e
      | .ok m =>
        match takeAddress c (row c m).hasAddr ws.dropLast with
        | none => .error .noAddressWrite
        | some (addr, rest) => decodePayload c m (dec c w).len addr rest

/-- What the controller decodes of a command word, its address register and its buffer registers when
the word is written (R80): LENGTH + 1 bytes where CMDDATA is set. -/
def decodeStaged (c : Cfg) (w addr : Word) (buf : List Word) : Option Instr :=
  match commandOf c w with
  | .error _ => none
  | .ok m =>
    assemble m addr
      (if (row c m).hasData then unstage buf ((dec c w).len.toNat + 1) else [])

/-- A command word laid out as a whole instruction with operand words of zeros. A program whose LENGTH
reads 0 is laid out with one buffer word, a program of one byte (log 49). -/
def wordImage (c : Cfg) (w : Word) : List RegWrite :=
  let f := dec c w
  (if f.addr then [(c.aAddr, 0#32)] else []) ++
    (List.range (if f.data then divUp (f.len.toNat + 1) 4 else 0)).map (fun k => (bufAddr c k, 0#32)) ++
    [(c.aCmd, w)]

/-- The instruction of a bare command word whose operands are zero. -/
def decodeWord (c : Cfg) (w : Word) : Option Instr := (decode c (wordImage c w)).toOption

/-- The instruction of a command word given as a number of `nbits` bits. -/
def decodeBits (c : Cfg) (nbits w : Nat) : Option Instr :=
  if nbits = 32 ∧ w < 2 ^ 32 then decodeWord c (BitVec.ofNat 32 w) else none

/-- The instruction the decoder reads from a word of spec/opcode_table.json, which prints words under
the reference configuration (R9). -/
def decodeTableWord (nbits w : Nat) : Option Instr := decodeBits cfgRef nbits w

/-! ### The encoder -/

/-- The LENGTH bits of `enc`: `byteCount - 1`, omitted (0) for a byte count of 0 (R105, R106). -/
def lengthField (c : Cfg) (n : Nat) : Word :=
  if 1 ≤ n then BitVec.ofNat 32 (n - 1) <<< c.lengthLsb else 0#32

/-- `enc(id, hasAddr, hasWr, hasData, poll, n)` (R104). Its domain is `n ≤ BUF_BYTES` (R116). -/
def enc (c : Cfg) (id : Byte) (hasAddr hasWr hasData poll : Bool) (n : Nat) : Word :=
  bitMask true c.actBit ||| bitMask poll c.pollBit ||| lengthField c n |||
    bitMask hasAddr c.cmdAddrBit ||| bitMask hasWr c.cmdWrBit ||| bitMask hasData c.cmdDataBit |||
    (id.setWidth 32 <<< c.cmdIdLsb)

/-- `stage(p)` (R141): the buffer-register writes, ascending. -/
def stage (c : Cfg) (p : List Byte) : List RegWrite :=
  (List.range (divUp p.length 4)).map (fun k => (bufAddr c k, stageWord p k))

/-- The row of an instruction. -/
def Instr.mnemonic : Instr → Mnemonic
  | .wren => .WREN
  | .se _ => .SE
  | .ce => .CE
  | .pp _ _ => .PP
  | .wrsr1 _ => .WRSR1
  | .wrsr2 _ => .WRSR2
  | .wrsr1w _ _ => .WRSR1W

/-- The address operand; 0 where there is none (R118). -/
def Instr.address : Instr → Word
  | .se a | .pp a _ => a
  | .wren | .ce | .wrsr1 _ | .wrsr2 _ | .wrsr1w _ _ => 0#32

/-- The payload operand (R110, column "payload"). -/
def Instr.payload : Instr → List Byte
  | .wren | .se _ | .ce => []
  | .pp _ p => p
  | .wrsr1 b | .wrsr2 b => [b]
  | .wrsr1w b0 b1 => [b0, b1]

/-- The descriptor of an instruction: its row of R110 with its operands. -/
def Instr.ins (c : Cfg) (i : Instr) : Ins :=
  let r := row c i.mnemonic
  ⟨i.mnemonic, r.id, r.hasAddr, i.address, r.hasWr, r.hasData, r.poll, i.payload, r.pk, r.timeout⟩

/-- `enc(i)` of a descriptor (R104). -/
def encIns (c : Cfg) (d : Ins) : Word := enc c d.id d.hasAddr d.hasWr d.hasData d.poll d.payload.length

/-- The register writes of a descriptor, in the order of R73 and R187. -/
def insWrites (c : Cfg) (d : Ins) : List RegWrite :=
  (if d.hasAddr then [(c.aAddr, d.addr)] else []) ++ stage c d.payload ++ [(c.aCmd, encIns c d)]

/-- The encoder: the register writes of an instruction (R187). -/
def encode (c : Cfg) (i : Instr) : List RegWrite := insWrites c (i.ins c)

end Sys2Proof
end

