-- ==== Sys2Proof/Machine/State.lean ====
section
/-! DEFINITION. The state of the machine as plain data (10_state.md), the reasons a step can stop, and
the state after reset (R47). -/
namespace Sys2Proof.Machine

/-! ### Engine -/

/-- The phase register's values (R21). -/
inductive Phase where
  | idle
  | addr
  | buf
  | issue
  | wait
  | mfr
  | done
  deriving DecidableEq, Repr

/-! ### Chip state -/

/-- A tri-state flag of a sector (R29). -/
inductive Tri where
  | yes
  | no
  | unknown
  deriving DecidableEq, Repr

/-- The stored part of a sector (R29); its offset and size are functions of its index (log 23). -/
structure Sector where
  erased : Tri
  prot : Tri
  deriving DecidableEq, Repr

/-! ### Controller -/

/-- The registers of the map (R32), by name. -/
inductive Reg where
  | cmd
  | addr
  | cfg
  | cache
  | status
  | id
  | buf (k : Nat)
  deriving DecidableEq, Repr

/-- The contents of the controller's registers (R32, R37). -/
structure Regs where
  cmd : Word
  addr : Word
  cfg : Word
  cache : Word
  status : Word
  id : Word
  buf : Vector Word bufWords
  deriving DecidableEq, Repr

/-- The command in flight (R43). -/
inductive Flight where
  /-- none -/
  | clear
  /-- the controller is executing this instruction -/
  | running (i : Instr)
  /-- the controller is executing a word that is no instruction of this block (U11) -/
  | foreign (w : Word)
  /-- a write of this word to the command register failed: a command may or may not have started (R81) -/
  | doubtful (w : Word)
  deriving DecidableEq, Repr

/-! ### Device -/

/-- What the bytes not listed in a memory read as: the erased-state value, or free bytes since draw `n`. -/
inductive MemBase where
  | erased
  | free (n : Nat)
  deriving DecidableEq, Repr

/-- The flash array (R60): the bytes that differ from the base, by strictly rising offset. -/
structure Memory where
  base : MemBase
  cells : List Host.Cell
  deriving DecidableEq, Repr

/-- The SPI-NOR device (R44, R46, R60, R80). -/
structure Device where
  flash : Memory
  wel : Bool
  sr1 : Byte
  sr2 : Byte
  deriving DecidableEq, Repr

/-! ### Environment, host, observation -/

/-- One answer of the Register Interface (R78); a write looks at `ok` only. -/
structure Draw where
  ok : Bool
  value : Word
  deriving DecidableEq, Repr

/-- Who answers: the free oracle (R78) or the reference environment (R80). -/
inductive EnvMode where
  | oracle
  | reference
  deriving DecidableEq, Repr

/-- The environment: answers given from outside, then free values; the reference environment's
choices and countdown (R80). `draws` counts draws and is the argument of the free values (log 2). -/
structure Env where
  mode : EnvMode
  tape : List Draw
  draws : Nat
  busyTape : List Nat
  busy : Nat
  deriving DecidableEq, Repr

/-- The host (46_host_context.md): calls waiting, the moves left of the call in progress, the last
result, the scratch buffer (R276), and what `encode` and `stage` returned (R140, R141). -/
structure HostCtx where
  inbox : List Call
  moves : List Move
  res : Res
  scratch : List Byte
  outWord : Word
  outWrites : List RegWrite
  deriving DecidableEq, Repr

/-- A transaction as 00_scope.md section 7 writes it: `W`, `W!`, `R`, `R!`. -/
inductive Txn where
  | w (addr value : Word)
  | wFail (addr value : Word)
  | r (addr value : Word)
  | rFail (addr : Word)
  deriving DecidableEq, Repr

/-- The state of the machine. `cfg` never changes (log 1); `trace` is the model's own record (log 26). -/
structure State where
  cfg : Cfg
  ph : Phase
  q : List Elem
  k : Nat
  cnt : Nat
  res : Res
  req : Request
  tainted : Bool
  probed : Bool
  sectorSize : Nat
  flashSize : Nat
  sectors : List Sector
  regs : Regs
  flight : Flight
  issued : Bool
  cacheOn : Bool
  dev : Device
  env : Env
  host : HostCtx
  trace : List Txn
  deriving DecidableEq, Repr

/-! ### Stops -/

/-- What stops the machine. -/
inductive Fault where
  /-- Raised by the host's `readBlock` of bytes outside the flash array (R60, R83): no such byte
  exists. Safe: the model stops. -/
  | outsideFlash
  deriving DecidableEq, Repr

/-- Where the model gives no meaning. All are safe: nothing is proved of what the hardware does next. -/
inductive Refusal where
  /-- Raised by `exec` for an instruction without a meaning; no instruction is left so. -/
  | notModelled (mnemonic : String)
  /-- Raised by `fetch` for a command word outside the block's set (R111, U11). -/
  | notOfThisBlock (w : Word)
  /-- Raised by acceptance, and by the host's own register accesses, while `tainted` is set (R27, U1). -/
  | whileTainted
  /-- Raised by acceptance of an erase or program outside the spec's preconditions (R65, R66, U7). -/
  | outsidePrecondition
  /-- Raised by ISSUE, and by the host's `readBlock`, while a command is in flight (R352, U10). -/
  | commandInFlight
  /-- Raised in states no rule of the spec gives a step; no run from reset reaches one. -/
  | noRule
  /-- Raised by the host's transfer when the bulk path is taken: it runs on the target (R6, R280). -/
  | bulkPath
  /-- Raised by the host's write of no bytes, or beyond the flash (R273, R274, D44). -/
  | hostPrecondition
  /-- Raised by the host's move for a flash offset no 32-bit operand holds (R36, R113, log 28). -/
  | unaddressable
  deriving DecidableEq, Repr

/-! ### Reset -/

/-- The registers at reset: unspecified by R47, 0 is the model's choice (log 3). -/
def Regs.reset : Regs :=
  ⟨0#32, 0#32, 0#32, 0#32, 0#32, 0#32, Vector.replicate bufWords 0#32⟩

/-- The device at reset: free flash contents (log 4); latch and status registers by choice (log 3). -/
def Device.reset : Device := ⟨⟨.free 0, []⟩, false, 0#8, 0#8⟩

/-- The state after reset (R47, R340) of a machine of any configuration (R7, R9); where R47 says
unspecified the value is log 3's. -/
def State.resetWith (c : Cfg) : State where
  cfg := c
  ph := .idle
  q := []
  k := 0
  cnt := 0
  res := .ok
  req := .writeEnable
  tainted := false
  probed := false
  sectorSize := 0
  flashSize := 0
  sectors := []
  regs := Regs.reset
  flight := .clear
  issued := false
  cacheOn := true
  dev := Device.reset
  env := ⟨.oracle, [], 1, [], 0⟩
  host := ⟨[], [], .ok, [], 0#32, []⟩
  trace := []

/-- The state after reset at the reference configuration, the one the host's interface names (log 1). -/
def State.reset : State := State.resetWith cfgRef

end Sys2Proof.Machine
end

