-- ==== Sys2Proof/Machine/Operands.lean ====
section
/-! DEFINITION. Operand forms: the registers of the map and their addresses (R32), what a wait reads
(R163), the bytes in the buffer registers, which sectors a request targets, expansions (R114) and
continuations (R245). -/
namespace Sys2Proof.Machine

/-! ### Registers -/

/-- The address of a register (R61). -/
def Reg.address (c : Cfg) : Reg → Word
  | .cmd => c.aCmd
  | .addr => c.aAddr
  | .cfg => c.aCfg
  | .cache => c.aCache
  | .status => c.aStatus
  | .id => c.aId
  | .buf k => bufAddr c k

/-- Read a register's content. -/
def Regs.get (r : Regs) : Reg → Word
  | .cmd => r.cmd
  | .addr => r.addr
  | .cfg => r.cfg
  | .cache => r.cache
  | .status => r.status
  | .id => r.id
  | .buf k => r.buf[k]?.getD 0#32

/-- Set a register's content. There is no `buffer[k]` for `k ≥ 64` (R37). -/
def Regs.put (r : Regs) (v : Word) : Reg → Regs
  | .cmd => { r with cmd := v }
  | .addr => { r with addr := v }
  | .cfg => { r with cfg := v }
  | .cache => { r with cache := v }
  | .status => { r with status := v }
  | .id => { r with id := v }
  | .buf k => { r with buf := r.buf.setIfInBounds k v }

/-- The register the manufacturer byte is read from: the one at `A_MFR` (R38, R243, R8 (c)). -/
def mfrReg (c : Cfg) : Reg :=
  if c.aMfr = c.aStatus then .status
  else if c.aMfr = c.aId then .id
  else if c.aMfr = c.aCmd then .cmd
  else if c.aMfr = c.aAddr then .addr
  else if c.aMfr = c.aCfg then .cfg
  else if c.aMfr = c.aCache then .cache
  else .buf 0

/-- `pollReg` (R163). -/
def pollReg : Signal → Reg
  | .act => .cmd
  | .idle => .status

/-- `pollBit` (R163). -/
def pollBit (c : Cfg) : Signal → Nat
  | .act => c.actBit
  | .idle => c.idleBit

/-! ### Requests -/

/-- The requests gated by `probed` (R304); an instruction issued singly is not (log 41). -/
def gated : Request → Bool
  | .eraseSector _ | .eraseChip | .pageProgram _ _ => true
  | .encode _ _ _ _ _ _ | .stage _ | .waitAct _ | .waitIdle _ | .writeEnable | .quadEnable
  | .protectDisable | .single _ => false

/-- The byte count of the payload a request asks to encode or stage (R116, R140, R141, R305; log 25). -/
def requestLength : Request → Nat
  | .encode _ _ _ _ _ n => n
  | .stage p | .pageProgram _ p => p.length
  | .single i => i.payload.length
  | .waitAct _ | .waitIdle _ | .writeEnable | .eraseSector _ | .eraseChip | .quadEnable
  | .protectDisable => 0

/-- The sectors a request targets, first and last index (R202, R203, R221); none for the others, an
instruction issued singly among them (log 41). -/
def targets (sectorSize nSectors : Nat) : Request → Option (Nat × Nat)
  | .eraseSector off => some (off.toNat / sectorSize, off.toNat / sectorSize)
  | .eraseChip => some (0, nSectors)
  | .pageProgram a p => some (a.toNat / sectorSize, (a.toNat + max p.length 1 - 1) / sectorSize)
  | .encode _ _ _ _ _ _ | .stage _ | .waitAct _ | .waitIdle _ | .writeEnable | .quadEnable
  | .protectDisable | .single _ => none

/-- The preconditions the model takes of a request: R65 for an erase, R66 for a program. -/
def precondition (sectorSize flashSize : Nat) : Request → Bool
  | .eraseSector off => decide (off.toNat % sectorSize = 0 ∧ off.toNat < flashSize)
  | .pageProgram a p => decide (a.toNat + p.length ≤ flashSize)
  | .encode _ _ _ _ _ _ | .stage _ | .waitAct _ | .waitIdle _ | .writeEnable | .eraseChip
  | .quadEnable | .protectDisable | .single _ => true

/-- The expansion of a request (R114); `encode` and `stage` are not expansions. DESIGN CHOICE (log 40):
`waitAct` and `waitIdle`, which R114 calls the poller alone, load the queue with one `poll`. -/
def expansion (c : Cfg) : Request → List Elem
  | .encode _ _ _ _ _ _ | .stage _ => []
  | .waitAct t => [.poll .act t]
  | .waitIdle t => [.poll .idle t]
  | .writeEnable => [.ins .wren]
  | .eraseSector off => [.ins .wren, .ins (.se off)]
  | .eraseChip => [.ins .wren, .ins .ce]
  | .pageProgram a p => if c.ppWrenPrefix then [.ins .wren, .ins (.pp a p)] else [.ins (.pp a p)]
  | .quadEnable | .protectDisable => [.ins .wren, .mfr]
  | .single i => [.ins i]

/-- The bucket of a manufacturer byte (R244). -/
def bucketOf (c : Cfg) (m : Byte) : Bucket := if m = c.mfrVendorA then .vendorA else .generic

/-- `continuation(operation, bucket)` (R245); empty for an operation without a manufacturer step. -/
def continuation : Request → Bucket → List Elem
  | .quadEnable, .vendorA => [.ins (.wrsr2 0x02#8)]
  | .quadEnable, .generic => [.ins (.wrsr1w 0x00#8 0x02#8)]
  | .protectDisable, .vendorA => [.ins (.wrsr2 0x02#8), .ins .wren, .ins (.wrsr1 0x00#8)]
  | .protectDisable, .generic => [.ins (.wrsr1w 0x00#8 0x02#8)]
  | .encode _ _ _ _ _ _, _ | .stage _, _ | .waitAct _, _ | .waitIdle _, _ | .writeEnable, _
  | .eraseSector _, _ | .eraseChip, _ | .pageProgram _ _, _ | .single _, _ => []

end Sys2Proof.Machine
end

