-- ==== Sys2Proof/Machine/Flags.lean ====
section
/-! DEFINITION. Every flag of the block (R42): ACT and the status-idle bit, `probed` and the other
tests at acceptance, `tainted`, the sectors' tri-state flags; and the numeric result codes (R301). -/
namespace Sys2Proof.Machine

/-! ### Completion signals -/

/-- The polled bit of a read value; clear means the awaited event has happened (R162, R163). -/
def pending (c : Cfg) (pk : Signal) (v : Word) : Bool := v.getLsbD (pollBit c pk)

/-- Set one bit of a register's content. -/
def setBit (w : Word) (i : Nat) : Word := w ||| bitMask true i

/-- Clear one bit of a register's content. -/
def clearBit (w : Word) (i : Nat) : Word := w &&& ~~~(bitMask true i)

/-! ### Results -/

/-- The numeric code of a result (R301). -/
def resultCode : Res → Nat
  | .ok => 0
  | .transport => 1
  | .busy => 2
  | .protocol _ => 3

/-- Whether a failure raised in a phase sets `tainted` (R27, R302, R303), in a bare wait too (log 42). -/
def taints : Res → Phase → Bool
  | .busy, _ => true
  | .transport, .issue => true
  | .transport, .wait => true
  | .transport, .idle | .transport, .addr | .transport, .buf | .transport, .mfr | .transport, .done
  | .ok, _ | .protocol _, _ => false

/-! ### Sector flags -/

/-- A sector index lies in the targeted range. -/
def targeted (t : Option (Nat × Nat)) (i : Nat) : Bool :=
  match t with
  | none => false
  | some (lo, hi) => decide (lo ≤ i ∧ i ≤ hi)

/-- Set `erased` of the targeted sectors, the head being sector `i`; no other flag changes. -/
def markFrom (t : Option (Nat × Nat)) (v : Tri) : Nat → List Sector → List Sector
  | _, [] => []
  | i, x :: xs => (if targeted t i then { x with erased := v } else x) :: markFrom t v (i + 1) xs

/-- The `erased` value a request's success gives the sectors it targets (R206, R226). -/
def successMark : Request → Tri
  | .pageProgram _ _ => .no
  | .encode _ _ _ _ _ _ | .stage _ | .waitAct _ | .waitIdle _ | .writeEnable | .eraseSector _
  | .eraseChip | .quadEnable | .protectDisable | .single _ => .yes

/-- The sector flags after the request in hand ends with a result: success (R206, R226), transport or
busy failure (R207, R226), protocol failure (no change). -/
def State.sectorsAfter (s : State) (r : Res) : List Sector :=
  let t := targets s.sectorSize s.sectors.length s.req
  match r with
  | .ok => markFrom t (successMark s.req) 0 s.sectors
  | .transport | .busy => markFrom t .unknown 0 s.sectors
  | .protocol _ => s.sectors

/-- Some targeted sector has `protected = YES`, the head being sector `i` (R305). -/
def anyProtected (t : Option (Nat × Nat)) : Nat → List Sector → Bool
  | _, [] => false
  | i, x :: xs => (targeted t i && decide (x.prot = .yes)) || anyProtected t (i + 1) xs

/-- The tests at acceptance, in the order of R308: NOT_PROBED, BAD_LENGTH, PROTECTED. -/
def State.refusalCause (s : State) (r : Request) : Option Cause :=
  if gated r && !s.probed then some .notProbed
  else if bufBytes < requestLength r then some .badLength
  else if anyProtected (targets s.sectorSize s.sectors.length r) 0 s.sectors then
    some .protectedSector
  else none

end Sys2Proof.Machine
end

