-- ==== Sys2Proof/Machine/Memory.lean ====
section
/-! DEFINITION. The flash array (R60, R69): one canonical list of the bytes that differ from what an
unlisted offset reads as, with its operations: read, program (bitwise and), erase, and losing all
knowledge of the content. -/
namespace Sys2Proof.Machine

/-- What an unlisted offset reads as: the device's erased-state value, or a free byte where the spec
leaves the content open. The one definition of it (log 4). -/
def Memory.unlisted (c : Cfg) (m : Memory) (a : Nat) : Byte :=
  match m.base with
  | .erased => c.erasedByte
  | .free n => Config.freeByte n a

/-- One byte of the array, `F[a]` (R80, R83). -/
def Memory.read (c : Cfg) (m : Memory) (a : Nat) : Byte := (m.cells.lookup a).getD (m.unlisted c a)

/-- Insert or replace a cell, keeping the offsets strictly rising. -/
def insertCell (a : Nat) (v : Byte) : List Host.Cell → List Host.Cell
  | [] => [(a, v)]
  | (b, w) :: t =>
    if a < b then (a, v) :: (b, w) :: t
    else if a = b then (a, v) :: t
    else (b, w) :: insertCell a v t

/-- Set one byte; a byte equal to what the unlisted offset reads as is not listed. -/
def Memory.write (c : Cfg) (a : Nat) (v : Byte) (m : Memory) : Memory :=
  { m with
    cells := if v = m.unlisted c a then m.cells.filter (fun x => x.1 ≠ a) else insertCell a v m.cells }

/-- `F[a + i] <- F[a + i] & p[i]` for every byte of the payload (R80, R220). -/
def Memory.program (c : Cfg) (a : Nat) : List Byte → Memory → Memory
  | [], m => m
  | b :: p, m => Memory.program c (a + 1) p (m.write c a (m.read c a &&& b))

/-- The cells of an erased range that must be listed: none over an erased base. -/
def erasedCells (c : Cfg) (lo n : Nat) (m : Memory) : List Host.Cell :=
  ((List.range' lo n).map (fun a => (a, c.erasedByte))).filter (fun x => x.2 ≠ m.unlisted c x.1)

/-- `F[x] <- ERASED_BYTE` for `lo <= x < lo + n` (R80, R200). -/
def Memory.eraseRange (c : Cfg) (lo n : Nat) (m : Memory) : Memory :=
  { m with
    cells := m.cells.filter (fun x => x.1 < lo) ++ erasedCells c lo n m ++
      m.cells.filter (fun x => lo + n ≤ x.1) }

/-- `F[x] <- ERASED_BYTE` for every `x` (R80, R201). -/
def Memory.eraseAll : Memory := ⟨.erased, []⟩

/-- Every byte free from draw `n` on: the spec gives the content no value. -/
def Memory.lose (n : Nat) : Memory := ⟨.free n, []⟩

/-- The canonical form: offsets strictly rising, and no cell equal to what its offset reads as unlisted. -/
def Memory.wf (c : Cfg) (m : Memory) : Bool :=
  decide (m.cells.Pairwise (fun x y => x.1 < y.1) ∧ ∀ x ∈ m.cells, x.2 ≠ m.unlisted c x.1)

end Sys2Proof.Machine
end

