-- ==== Sys2Proof/Machine/Ops.lean ====
section
/-! DEFINITION. The named operations: draws of the oracle, the Register Interface (R61), the device's
effects (R80, R200 to R242), abort and collection (R310, R311), the sequence driver's steps (R180 to
R186, R164) and fetching the element whose step is next. -/
namespace Sys2Proof.Machine

/-! ### The oracle -/

/-- Record a transaction. -/
def State.log (t : Txn) (s : State) : State := { s with trace := s.trace ++ [t] }

/-- The next answer: from the tape, else free (R78). -/
def State.answer (s : State) : Draw :=
  match s.env.tape with
  | d :: _ => d
  | [] => ⟨Config.freeOk s.env.draws, Config.freeWord s.env.draws⟩

/-- The next answer has been given. -/
def State.popAnswer (s : State) : State :=
  { s with env := { s.env with tape := s.env.tape.tail, draws := s.env.draws + 1 } }

/-- The reference environment's next choice of `busy`, at least 1 (R80, log 19). -/
def State.busyChoice (s : State) : Nat :=
  max 1 (match s.env.busyTape with
    | b :: _ => b
    | [] => Config.freeBusy s.env.draws)

/-- Set a register's content. -/
def State.putReg (r : Reg) (v : Word) (s : State) : State := { s with regs := s.regs.put v r }

/-! ### The device -/

/-- The device is known to accept an erase or a program: write-enabled, and, for the free oracle, no
bit of status register 1 set that could protect it (R79, R343, log 10). -/
def Device.flashAccepts (mode : EnvMode) (d : Device) : Bool :=
  match mode with
  | .reference => d.wel
  | .oracle => d.wel && decide (d.sr1 = 0#8)

/-- The spec says what an erase at this offset does: R80's sector containing it, for the free oracle
only at a sector's start (U7), in both inside the array. -/
def eraseDefined (c : Cfg) (mode : EnvMode) (a : Word) : Bool :=
  decide (a.toNat < c.flashSize ∧ (mode = .reference ∨ a.toNat % c.sectorSize = 0))

/-- A flash command whose effect the spec leaves open: free contents, the latch taken as cleared, the
status registers as they were (log 10). -/
def Device.loseFlash (n : Nat) (d : Device) : Device := { d with flash := Memory.lose n, wel := false }

/-- A status write whose effect the spec leaves open: free status registers, the latch taken as cleared,
the flash array as it was (log 10). -/
def Device.loseStatus (n : Nat) (d : Device) : Device :=
  { d with sr1 := Config.freeSr n 1, sr2 := Config.freeSr n 2, wel := false }

/-- A command without write-enable: ignored by the reference environment (R80), open otherwise (U13). -/
def unaccepted (mode : EnvMode) (lost d : Device) : Device :=
  match mode with
  | .reference => d
  | .oracle => lost

/-- The write-enable command sets the latch (R44, R80), and leaves one that is set (log 48). -/
def Device.writeEnable (d : Device) : Device := { d with wel := true }

/-- The sector erase (R80, R200). -/
def Device.eraseSector (c : Cfg) (mode : EnvMode) (n : Nat) (a : Word) (d : Device) : Device :=
  if d.flashAccepts mode then
    if eraseDefined c mode a then
      { d with
        flash := d.flash.eraseRange c (a.toNat / c.sectorSize * c.sectorSize) c.sectorSize
        wel := false }
    else d.loseFlash n
  else unaccepted mode (d.loseFlash n) d

/-- The chip erase (R80, R201). -/
def Device.eraseChip (mode : EnvMode) (n : Nat) (d : Device) : Device :=
  if d.flashAccepts mode then { d with flash := Memory.eraseAll, wel := false }
  else unaccepted mode (d.loseFlash n) d

/-- The page program, bitwise and (R80, R220). -/
def Device.program (c : Cfg) (mode : EnvMode) (n : Nat) (a : Word) (p : List Byte) (d : Device) : Device :=
  if d.flashAccepts mode then
    if a.toNat + p.length ≤ c.flashSize then
      { d with flash := d.flash.program c a.toNat p, wel := false }
    else d.loseFlash n
  else unaccepted mode (d.loseFlash n) d

/-- The spec says what a status write leaves: R80's environment does, and for the free oracle a device
whose status registers follow a known layout; on any other they may hold anything (R362, U2, log 32). -/
def statusDefined (c : Cfg) (mode : EnvMode) : Bool := decide (mode = .reference) || c.layoutKnown

/-- A write of the device's status registers to the given contents (R80, R240 to R242). -/
def Device.writeStatus (c : Cfg) (mode : EnvMode) (n : Nat) (sr1 sr2 : Byte) (d : Device) : Device :=
  if d.wel then
    if statusDefined c mode then { d with sr1 := sr1, sr2 := sr2, wel := false } else d.loseStatus n
  else unaccepted mode (d.loseStatus n) d

/-- The device's effect of a completed command (R80); `n` indexes the free values. -/
def Device.apply (c : Cfg) (mode : EnvMode) (n : Nat) (i : Instr) (d : Device) : Device :=
  match i with
  | .wren => d.writeEnable
  | .se a => d.eraseSector c mode n a
  | .ce => d.eraseChip mode n
  | .pp a p => d.program c mode n a p
  | .wrsr1 b => d.writeStatus c mode n b d.sr2
  | .wrsr2 b => d.writeStatus c mode n d.sr1 b
  | .wrsr1w b0 b1 => d.writeStatus c mode n b0 b1

/-- The device's content after a command the spec gives no meaning: anything (U11). -/
def Device.loseAll (n : Nat) (d : Device) : Device := (d.loseFlash n).loseStatus n

/-- The command in flight completes: its effect on the device is there (R72). -/
def State.complete (s : State) : State :=
  match s.flight with
  | .running i =>
    { s with
      flight := .clear
      dev := s.dev.apply s.cfg s.env.mode s.env.draws i
      env := { s.env with draws := s.env.draws + 1 } }
  | .foreign _ =>
    { s with
      flight := .clear
      dev := s.dev.loseAll s.env.draws
      env := { s.env with draws := s.env.draws + 1 } }
  | .clear | .doubtful _ => s

/-! ### The Register Interface -/

/-- The command the controller starts when a word is written to its command register (R67, R80). -/
def State.flightOf (s : State) (w : Word) : Flight :=
  match decodeStaged s.cfg w s.regs.addr s.regs.buf.toList with
  | some i => .running i
  | none =>
    match s.env.mode with
    | .oracle => .foreign w
    | .reference => .clear

/-- The reference environment at the start of a command: the status-idle bit set, `busy` chosen (R80). -/
def State.startBusy (s : State) : State :=
  match s.env.mode with
  | .oracle => s
  | .reference =>
    { s with
      regs := { s.regs with status := setBit s.regs.status s.cfg.idleBit }
      env := { s.env with
        busy := s.busyChoice
        busyTape := s.env.busyTape.tail
        draws := s.env.draws + 1 } }

/-- A word has reached the command register: with ACT set it triggers (R33, R67). The reference
environment ignores a word that is none of the block's (R111). -/
def State.trigger (w : Word) (s : State) : State :=
  if w.getLsbD s.cfg.actBit then
    match s.flightOf w with
    | .clear => s
    | f => { s with issued := true, flight := f }.startBusy
  else s

/-- A write that reached its register. -/
def State.landed (r : Reg) (v : Word) (s : State) : State :=
  match r with
  | .cmd => (s.putReg .cmd v).trigger v
  | .addr | .cfg | .cache | .status | .id | .buf _ => s.putReg r v

/-- A write that answered not ok: the register holds a free value; on the command register a command
may or may not have started (R81). -/
def State.lost (r : Reg) (v : Word) (s : State) : State :=
  match r with
  | .cmd => { s.putReg .cmd (Config.freeWord s.env.draws) with flight := .doubtful v }
  | .addr | .cfg | .cache | .status | .id | .buf _ => s.putReg r (Config.freeWord s.env.draws)

/-- `writeWord` (R61): whether it answered ok, and the state after it. -/
def State.writeReg (r : Reg) (v : Word) (s : State) : Bool × State :=
  match s.env.mode with
  | .oracle =>
    if s.answer.ok then (true, (s.popAnswer.landed r v).log (.w (r.address s.cfg) v))
    else (false, (s.lost r v).popAnswer.log (.wFail (r.address s.cfg) v))
  | .reference => (true, (s.landed r v).log (.w (r.address s.cfg) v))

/-- The reference environment finishes its command: effect applied, both bits read 0 (R80). The status
register's other bits, the manufacturer byte among them, never change there (log 47). -/
def State.finishBusy (s : State) : State :=
  { s.complete with
    regs := { s.regs with
      cmd := clearBit s.regs.cmd s.cfg.actBit
      status := clearBit s.regs.status s.cfg.idleBit } }

/-- A read of the command or status register counts `busy` down (R80). -/
def State.tickBusy (r : Reg) (s : State) : State :=
  if (r = .cmd ∨ r = .status) ∧ 0 < s.env.busy then
    let s1 : State := { s with env := { s.env with busy := s.env.busy - 1 } }
    if s1.env.busy = 0 then s1.finishBusy else s1
  else s

/-- `readWord` (R61): whether it answered ok, the value, and the state after it. The value is what the
controller presents (R77), and the register holds it from then on (log 16). The reference environment
presents the command word as written, with ACT as R80 has it (log 46). -/
def State.readReg (r : Reg) (s : State) : Bool × Word × State :=
  match s.env.mode with
  | .oracle =>
    if s.answer.ok then
      (true, s.answer.value,
        (s.popAnswer.putReg r s.answer.value).log (.r (r.address s.cfg) s.answer.value))
    else (false, s.answer.value, s.popAnswer.log (.rFail (r.address s.cfg)))
  | .reference =>
    let s1 := s.tickBusy r
    (true, s1.regs.get r, s1.log (.r (r.address s.cfg) (s1.regs.get r)))

/-! ### Taking a failure, and the return from one -/

/-- Abort, `raise <Failure>` (R310): the sector flags of the request in hand, `tainted` where the
failure and the phase say so, the queue emptied, the result recorded, phase DONE. -/
def State.raise (f : Res) (s : State) : State :=
  { s with
    sectors := s.sectorsAfter f
    tainted := s.tainted || taints f s.ph
    q := []
    res := f
    ph := .done }

/-- The host collects the result (R186, R311); a call stops at its first result that is not OK (R271). -/
def State.collect (s : State) : State :=
  { s with
    ph := .idle
    host := { s.host with
      res := s.res
      moves := if s.res = .ok then s.host.moves else [] } }

/-! ### The sequence driver -/

/-- Beginning the head of the queue (R181). -/
def State.begin (s : State) : State :=
  match s.q with
  | [] => s
  | .mfr :: _ => { s with ph := .mfr }
  | .illegal _ :: _ => { s with ph := .issue }
  | .poll _ _ :: _ => { s with ph := .wait, cnt := 0 }
  | .ins i :: _ =>
    if (i.ins s.cfg).hasAddr then { s with ph := .addr }
    else if (i.ins s.cfg).payload ≠ [] then { s with ph := .buf, k := 0 }
    else { s with ph := .issue }

/-- The operation ends OK: its success effects, the result, phase DONE (R185). -/
def State.succeed (s : State) : State :=
  { s with sectors := s.sectorsAfter .ok, q := [], res := .ok, ph := .done }

/-- End of an instruction: the command has completed; the next element begins, or the operation ends
(R185). -/
def State.finishHead (s : State) : State :=
  let s1 := { s.complete with q := s.q.tail }
  match s.q.tail with
  | [] => s1.succeed
  | _ :: _ => s1.begin

/-- Phase ADDR (R182). -/
def State.addrStep (d : Ins) (s : State) : State :=
  match s.writeReg .addr d.addr with
  | (false, s1) => s1.raise .transport
  | (true, s1) => if d.payload ≠ [] then { s1 with ph := .buf, k := 0 } else { s1 with ph := .issue }

/-- Phase BUF, writing `w` to `buffer[k]` (R183). -/
def State.bufStep (d : Ins) (w : Word) (s : State) : State :=
  match s.writeReg (.buf s.k) w with
  | (false, s1) => s1.raise .transport
  | (true, s1) =>
    if s.k + 1 = divUp d.payload.length 4 then { s1 with k := s.k + 1, ph := .issue }
    else { s1 with k := s.k + 1 }

/-- Phase ISSUE (R184): the one write that sets ACT; the word is computed here (R26). -/
def State.issueStep (d : Ins) (s : State) : State :=
  match s.writeReg .cmd (encIns s.cfg d) with
  | (false, s1) => s1.raise .transport
  | (true, s1) => { s1 with cnt := 0, ph := .wait }

/-- A poll read that shows the bit set (R164); ACT set before the first ISSUE since reset marks
`tainted` (R47, log 14). -/
def State.pollAgain (pk : Signal) (s : State) : State :=
  { s with cnt := s.cnt + 1, tainted := s.tainted || (decide (pk = .act) && !s.issued) }

/-- Phase WAIT (R164). -/
def State.waitStep (pk : Signal) (t : Nat) (s : State) : State :=
  if s.cnt = t then s.raise .busy
  else match s.readReg (pollReg pk) with
    | (false, _, s1) => s1.raise .transport
    | (true, v, s1) => if pending s.cfg pk v then s1.pollAgain pk else s1.finishHead

/-- One step of an instruction in the phase the machine is in: one transaction (R41, R182 to R184,
R164). The phases IDLE, MFR and DONE stand for no transaction of an instruction (R21); a command is
not issued over another (R352). -/
def runPhase (d : Ins) (s : State) : Host.Outcome State Fault Refusal :=
  match s.ph with
  | .addr => if d.hasAddr then .next (s.addrStep d) else .refused .noRule
  | .buf =>
    match (stageWords d.payload)[s.k]? with
    | some w => .next (s.bufStep d w)
    | none => .refused .noRule
  | .issue => if s.flight = .clear then .next (s.issueStep d) else .refused .commandInFlight
  | .wait => .next (s.waitStep d.pk d.timeout)
  | .idle | .mfr | .done => .refused .noRule

/-! ### Accepting a request -/

/-- A request that needs no transaction is answered at once: `encode`, `stage` (R140, R141). -/
def State.returned (w : Word) (ws : List RegWrite) (s : State) : State :=
  { s with host := { s.host with outWord := w, outWrites := ws }, q := [], res := .ok, ph := .done }

/-- Load an expansion and begin its head (R180, R181). -/
def State.start (es : List Elem) (s : State) : State := { s with q := es }.begin

/-- Accepting a request in IDLE (R180): the tests of R308, then the expansion. A request accepted
while `tainted`, or outside the spec's preconditions, has no meaning (R27, R65, R66). -/
def accept (r : Request) (s : State) : Host.Outcome State Fault Refusal :=
  let s0 := { s with req := r, trace := [] }
  if s.tainted then .refused .whileTainted
  else match s.refusalCause r with
    | some c => .next (s0.raise (.protocol c))
    | none =>
      if precondition s.sectorSize s.flashSize r then
        match r with
        | .encode id a w d p n => .next (s0.returned (enc s.cfg id a w d p n) s.host.outWrites)
        | .stage p => .next (s0.returned s.host.outWord (stage s.cfg p))
        | .waitAct _ | .waitIdle _ | .writeEnable | .eraseSector _ | .eraseChip | .pageProgram _ _
        | .quadEnable | .protectDisable | .single _ => .next (s0.start (expansion s.cfg r))
      else .refused .outsidePrecondition

/-- An element placed in an idle engine as the one to run next, with the request it counts as. -/
def State.place (r : Request) (e : Elem) (s : State) : State := { s with req := r }.start [e]

/-! ### What the next step is -/

/-- What the machine does next. -/
inductive Fetched where
  | host
  | collect
  | mfr
  | instr (i : Instr)
  | poll (pk : Signal) (t : Nat)
  | illegal (w : Word)
  | noRule
  deriving DecidableEq, Repr

/-- The step that `ph` and the head of `q` say comes next (R41). -/
def fetch (s : State) : Fetched :=
  match s.ph with
  | .idle => .host
  | .done => .collect
  | .mfr =>
    match s.q with
    | .mfr :: _ => .mfr
    | _ => .noRule
  | .addr | .buf | .issue | .wait =>
    match s.q with
    | .ins i :: _ => .instr i
    | .poll pk t :: _ => if s.ph = .wait then .poll pk t else .noRule
    | .illegal w :: _ => .illegal w
    | .mfr :: _ | [] => .noRule

end Sys2Proof.Machine
end

