-- ==== Sys2Proof/Machine/Client.lean ====
section
/-! DEFINITION. The host agent (46_host_context.md): the public operations, probe, the write
orchestrator, and the host's step while the engine is idle. -/
namespace Sys2Proof.Machine

/-! ### Ending a call, planning one -/

/-- A call ends with a result without the engine. -/
def State.hostReturn (r : Res) (s : State) : State :=
  { s with host := { s.host with res := r, moves := [] } }

/-- A call's moves are laid out; its trace and its scratch buffer start empty. -/
def State.plan (ms : List Move) (s : State) : State :=
  { s with trace := [], host := { s.host with moves := ms, scratch := [] } }

/-- The result of an operation whose return value is not in the source (R287). -/
def State.stubReturn (s : State) : State :=
  { s.hostReturn (Config.freeRes s.env.draws) with env := { s.env with draws := s.env.draws + 1 } }

/-! ### Probe (R285, R342) -/

/-- The moves of probe, in the order of R285. -/
def probeMoves : List Move :=
  [.readId, .cacheOff, .clockConfig, .submit .quadEnable, .submit .protectDisable, .cacheOn, .setProbed]

/-- Sector geometry from the matched record (R285 (3)): sizes in KB, every flag unknown (R47). -/
def State.setGeometry (d : DeviceSpec) (s : State) : State :=
  { s with
    sectorSize := d.sectorKB * 1024
    flashSize := d.flashKB * 1024
    sectors := List.replicate (d.flashKB * 1024 / (d.sectorKB * 1024)) ⟨.unknown, .unknown⟩ }

/-- The version ID is read and matched by exact equality (R30, R285 (1), (2)). -/
def State.readVersion (s : State) : State :=
  match s.readReg .id with
  | (false, _, s1) => s1.hostReturn .transport
  | (true, v, s1) =>
    match s.cfg.deviceTable.find? (fun d => decide (d.versionId = v)) with
    | none => s1.hostReturn (.protocol .notProbed)
    | some d => s1.setGeometry d

/-- A register write of probe whose word is not in the source (log 20): if it answers ok the read cache
is as `cacheAfter` says, if not the call ends and it is as `cacheLost` says. -/
def State.poke (r : Reg) (w : Word) (cacheAfter cacheLost : Bool) (s : State) : State :=
  match s.writeReg r w with
  | (false, s1) => { s1.hostReturn .transport with cacheOn := cacheLost }
  | (true, s1) => { s1 with cacheOn := cacheAfter }

/-- A write of the cache-control register (R285 (4), (7)). After a failed one the register is
unspecified (R81), and so is whether the read cache is on: a free value (log 43). -/
def State.setCache (w : Word) (on : Bool) (s : State) : State :=
  s.poke .cache w on (Config.freeCacheOn s.env.draws)

/-- The clock and bus-width configuration, one write of the config register (R285 (5), log 20); the read
cache is as it was. -/
def State.setClock (s : State) : State := s.poke .cfg Config.clockWord s.cacheOn s.cacheOn

/-- `probed` is set last (R285 (8)). -/
def State.setProbed (s : State) : State := { s.hostReturn .ok with probed := true }

/-! ### The write orchestrator (R273 to R279) -/

/-- `firstPage` (R274). -/
def firstPage (pageSize offset : Nat) : Nat := offset / pageSize

/-- `lastPage`, exclusive (R274). -/
def lastPage (pageSize offset count : Nat) : Nat := divUp (offset + count) pageSize

/-- `envStart` (R274). -/
def envStart (pageSize offset : Nat) : Nat := firstPage pageSize offset * pageSize

/-- `envEnd` (R274). -/
def envEnd (pageSize offset count : Nat) : Nat := lastPage pageSize offset count * pageSize

/-- Read a fringe only where it is not empty (R276). -/
def fringeMove (start len : Nat) : List Move := if 0 < len then [.fringe start len] else []

/-- Submit a request at a flash offset: the operand is 32 bits wide (R36, R113), and an offset that does
not fit is no request (log 28). -/
def submitAt (offset : Nat) (r : Word → Request) : Move :=
  if offset < 2 ^ 32 then .submit (r (BitVec.ofNat 32 offset)) else .unaddressable

/-- The erase step (R277): the covered sectors in ascending order, or the whole chip. -/
def eraseMoves (policy : ErasePolicy) (pageSize offset count : Nat) : List Move :=
  match policy with
  | .coveredSectors =>
    (List.range' (firstPage pageSize offset)
        (lastPage pageSize offset count - firstPage pageSize offset)).map
      (fun p => submitAt (p * pageSize) .eraseSector)
  | .wholeChip => [.submit .eraseChip]

/-- The moves of a write: fringes and copy, erase, transfer (R273). -/
def writeMoves (policy : ErasePolicy) (pageSize : Nat) (buffer : List Byte) (offset count : Nat) :
    List Move :=
  fringeMove (envStart pageSize offset) (offset - envStart pageSize offset) ++ [.copy buffer] ++
    fringeMove (offset + count) (envEnd pageSize offset count - (offset + count)) ++
    eraseMoves policy pageSize offset count ++ [.transfer (envStart pageSize offset)]

/-- The page programs of the slow path (R279). -/
def programMoves (chunk start : Nat) (buffer : List Byte) : List Move :=
  (List.range (divUp buffer.length chunk)).map (fun j =>
    submitAt (start + j * chunk) (fun a => .pageProgram a ((buffer.drop (j * chunk)).take chunk)))

/-- `readBlock(address, length)` (R83): the bytes as they stand. -/
def State.flashBytes (s : State) (start len : Nat) : List Byte :=
  (List.range' start len).map (s.dev.flash.read s.cfg)

/-- The answer of a host access that is no register transaction: `ok` only. -/
def State.hostOk (s : State) : Bool :=
  match s.env.mode with
  | .oracle => s.answer.ok
  | .reference => true

/-- The state after that answer. -/
def State.hostPop (s : State) : State :=
  match s.env.mode with
  | .oracle => s.popAnswer
  | .reference => s

/-- Read a fringe into the scratch buffer (R276); a failed read ends the write (R83). -/
def State.readFringe (start len : Nat) (s : State) : State :=
  if s.hostOk then
    { s.hostPop with host := { s.host with scratch := s.host.scratch ++ s.flashBytes start len } }
  else s.hostPop.hostReturn .transport

/-- Copy the caller's buffer into the middle of the scratch buffer (R276). -/
def State.copyIn (p : List Byte) (s : State) : State :=
  { s with host := { s.host with scratch := s.host.scratch ++ p } }

/-- The slow path's page programs come next (R279). -/
def State.slowPath (start : Nat) (s : State) : State :=
  { s with
    host := { s.host with moves := programMoves s.cfg.progChunk start s.host.scratch ++ s.host.moves } }

/-- The transfer step (R278): the slow path; bulk first, when its allocation fails (R280). Whether the
target's memory can be allocated is an answer from outside in both environments (log 22). -/
def transferStep (start : Nat) (s : State) : Host.Outcome State Fault Refusal :=
  if s.cfg.bulkFirst then
    if s.answer.ok then .refused .bulkPath else .next (s.popAnswer.slowPath start)
  else .next (s.slowPath start)

/-! ### The host's step -/

/-- Reading flash content must not overlap a command (R352) and stays inside the array. -/
def fringeStep (start len : Nat) (s : State) : Host.Outcome State Fault Refusal :=
  if s.flight ≠ .clear then .refused .commandInFlight
  else if start + len ≤ s.cfg.flashSize then .next (s.readFringe start len)
  else .fault .outsideFlash

/-- One move of the host; none of them touches the hardware while `tainted` (R27, R354). -/
def hostMove (m : Move) (s : State) : Host.Outcome State Fault Refusal :=
  match m with
  | .copy p => .next (s.copyIn p)
  | .setProbed => .next s.setProbed
  | .submit r => accept r s
  | .unaddressable => .refused .unaddressable
  | .readId => if s.tainted then .refused .whileTainted else .next s.readVersion
  | .cacheOff =>
    if s.tainted then .refused .whileTainted else .next (s.setCache Config.cacheOffWord false)
  | .cacheOn =>
    if s.tainted then .refused .whileTainted else .next (s.setCache Config.cacheOnWord true)
  | .clockConfig =>
    if s.tainted then .refused .whileTainted else .next s.setClock
  | .fringe start len => if s.tainted then .refused .whileTainted else fringeStep start len s
  | .transfer start => if s.tainted then .refused .whileTainted else transferStep start s

/-- The preconditions of `write(buffer, offset, count)` (R273, R274, D44). -/
def State.writeAllowed (s : State) (offset count : Nat) : Bool :=
  decide (0 < count ∧ offset + count ≤ s.flashSize)

/-- The moves of `erase(first, last)` (R271): every sector of the range in ascending order. One that does
not exist is refused when its turn comes (R65), after those that do have been erased (log 45). -/
def State.eraseCall (s : State) (firstSector lastSector : Nat) : List Move :=
  (List.range' firstSector (lastSector + 1 - firstSector)).map
    (fun i => submitAt (i * s.sectorSize) .eraseSector)

/-- Beginning a write (R273). A buffer that does not hold exactly `count` bytes stands for `count` free
ones (log 44). -/
def State.beginWrite (buffer : List Byte) (offset count : Nat) (s : State) : State :=
  let moves := fun b => writeMoves s.cfg.erasePolicy s.sectorSize b offset count
  if buffer.length = count then s.plan (moves buffer)
  else State.plan (moves ((List.range count).map (Config.freeCallerByte s.env.draws)))
    { s with env := { s.env with draws := s.env.draws + 1 } }

/-- Probing (R285); re-probing is a no-op that returns success (R286). -/
def State.beginProbe (s : State) : State := if s.probed then s.hostReturn .ok else s.plan probeMoves

/-- Beginning a call (R270 to R273, R285 to R287). -/
def beginCall (call : Call) (s : State) : Host.Outcome State Fault Refusal :=
  match call with
  | .request r => accept r s
  | .probe | .autoProbe => .next s.beginProbe
  | .massErase => accept .eraseChip s
  | .erase f l =>
    if !s.probed then .next (s.hostReturn (.protocol .notProbed))
    else .next ((s.hostReturn .ok).plan (s.eraseCall f l))
  | .write b off n =>
    if !s.probed then .next (s.hostReturn (.protocol .notProbed))
    else if s.writeAllowed off n then .next (s.beginWrite b off n)
    else .refused .hostPrecondition
  | .protectCheck | .protect _ _ _ | .getInfo => .next s.stubReturn

/-- The host's step in IDLE: the next move of its call, else the next call, else nothing (log 5). -/
def hostStep (s : State) : Host.Outcome State Fault Refusal :=
  match s.host.moves with
  | m :: ms => hostMove m { s with host := { s.host with moves := ms } }
  | [] =>
    match s.host.inbox with
    | [] => .next s
    | c :: cs => beginCall c { s with host := { s.host with inbox := cs } }

end Sys2Proof.Machine
end

