-- ==== Sys2Proof/Machine/Erase.lean ====
section
/-! DEFINITION. The erase instructions (43_erase.md). -/
namespace Sys2Proof.Machine

/-- `SE a` (R200): the address register, the command word, then the wait on ACT. -/
def execSe (a : Word) (s : State) : Host.Outcome State Fault Refusal :=
  runPhase ((Instr.se a).ins s.cfg) s

/-- `CE` (R201): the command word, then the wait on ACT. -/
def execCe (s : State) : Host.Outcome State Fault Refusal := runPhase (Instr.ce.ins s.cfg) s

end Sys2Proof.Machine
end

