-- ==== Sys2Proof/Machine/PageProgram.lean ====
section
/-! DEFINITION. The page-program instruction (44_page_program.md). -/
namespace Sys2Proof.Machine

/-- `PP a, p` (R220): the address register, the staged payload, the command word, then the wait on ACT. -/
def execPp (a : Word) (p : List Byte) (s : State) : Host.Outcome State Fault Refusal :=
  runPhase ((Instr.pp a p).ins s.cfg) s

end Sys2Proof.Machine
end

