-- ==== Sys2Proof/Machine/StatusSequencer.lean ====
section
/-! DEFINITION. The status-write instructions and the manufacturer step (45_status_sequencer.md). -/
namespace Sys2Proof.Machine

/-- `WRSR1 b` (R240): one byte staged, the command word, then the wait on the signal `PK_WRSR`. -/
def execWrsr1 (b : Byte) (s : State) : Host.Outcome State Fault Refusal :=
  runPhase ((Instr.wrsr1 b).ins s.cfg) s

/-- `WRSR2 b` (R241). -/
def execWrsr2 (b : Byte) (s : State) : Host.Outcome State Fault Refusal :=
  runPhase ((Instr.wrsr2 b).ins s.cfg) s

/-- `WRSR1W b0, b1` (R242): two bytes staged in one word. -/
def execWrsr1w (b0 b1 : Byte) (s : State) : Host.Outcome State Fault Refusal :=
  runPhase ((Instr.wrsr1w b0 b1).ins s.cfg) s

/-- The manufacturer read and branch (R243): one plain register read; the queue becomes the
continuation of the bucket found. -/
def State.mfrRead (s : State) : State :=
  match s.readReg (mfrReg s.cfg) with
  | (false, _, s1) => s1.raise .transport
  | (true, v, s1) => s1.start (continuation s.req (bucketOf s.cfg (byteAt v s.cfg.mfrLsb)))

/-- Phase MFR (R243); a request without a manufacturer step never has one. -/
def mfrStep (s : State) : Host.Outcome State Fault Refusal :=
  match continuation s.req .generic with
  | [] => .refused .noRule
  | _ :: _ => .next s.mfrRead

end Sys2Proof.Machine
end

