-- ==== Sys2Proof/Machine/WriteEnable.lean ====
section
/-! DEFINITION. The write-enable instruction (42_issue_and_write_enable.md). -/
namespace Sys2Proof.Machine

/-- `WREN` (R190): the command word, then the wait on ACT; no address, no payload. -/
def execWren (s : State) : Host.Outcome State Fault Refusal := runPhase (Instr.wren.ins s.cfg) s

end Sys2Proof.Machine
end

