-- ==== Sys2Proof/Machine/Dispatch.lean ====
section
/-! DEFINITION. One arm per instruction: one step of the instruction, in the phase the machine is in. -/
namespace Sys2Proof.Machine

def exec (i : Instr) (s : State) : Host.Outcome State Fault Refusal :=
  match i with
  | .wren => Sys2Proof.Machine.execWren s
  | .se a => Sys2Proof.Machine.execSe a s
  | .ce => Sys2Proof.Machine.execCe s
  | .pp a p => Sys2Proof.Machine.execPp a p s
  | .wrsr1 b => Sys2Proof.Machine.execWrsr1 b s
  | .wrsr2 b => Sys2Proof.Machine.execWrsr2 b s
  | .wrsr1w b0 b1 => Sys2Proof.Machine.execWrsr1w b0 b1 s

end Sys2Proof.Machine
end

