-- ==== Sys2Proof/Machine/Step.lean ====
section
/-! DEFINITION. One step of the machine: one transaction of the engine, one acceptance, one collection
(R41, D1), or one move of the host. -/
namespace Sys2Proof.Machine

/-- One step. -/
def step (s : State) : Host.Outcome State Fault Refusal :=
  match fetch s with
  | .host => hostStep s
  | .collect => .next s.collect
  | .mfr => mfrStep s
  | .instr i => exec i s
  | .poll pk t => .next (s.waitStep pk t)
  | .illegal w => .refused (.notOfThisBlock w)
  | .noRule => .refused .noRule

/-- `s` with the instruction of the given command word (operand words of zeros) as the one its next
step runs: at the head of the queue, begun, counted as issued singly (log 7). A word that is no
instruction of the block is placed as it is. -/
def State.withFetchWord (s : State) (nbits w : Nat) : State :=
  match decodeBits s.cfg nbits w with
  | some i => s.place (.single i) (.ins i)
  | none => s.place s.req (.illegal (BitVec.ofNat 32 w))

end Sys2Proof.Machine
end

