-- ==== Sys2Proof/Machine/Driver.lean ====
section
/-! DEFINITION. The poller and the sequence driver as functions of the oracle's answers (R163, R187):
what the steps of Ops compute. -/
namespace Sys2Proof.Machine

/-- What a run does: its trace, its result, the answers it did not use. -/
structure Run where
  trace : List Txn
  res : Res
  rest : List Draw
  deriving DecidableEq, Repr

/-- Put transactions in front of a run. -/
def Run.after (tr : List Txn) (x : Run) : Run := { x with trace := tr ++ x.trace }

/-- Go on with the answers left while the result is OK (R187). -/
def andThen (x : Option Run) (f : List Draw → Option Run) : Option Run :=
  match x with
  | none => none
  | some x => if x.res = .ok then (f x.rest).map (Run.after x.trace) else some x

/-- `wait(pk, T)` (R163); `none` where the answers given do not suffice. -/
def waitRun (c : Cfg) (pk : Signal) : Nat → List Draw → Option Run
  | 0, ans => some ⟨[], .busy, ans⟩
  | _ + 1, [] => none
  | t + 1, d :: ans =>
    if d.ok then
      if pending c pk d.value then
        (waitRun c pk t ans).map (Run.after [.r ((pollReg pk).address c) d.value])
      else some ⟨[.r ((pollReg pk).address c) d.value], .ok, ans⟩
    else some ⟨[.rFail ((pollReg pk).address c)], .transport, ans⟩

/-- A list of register writes, stopping at the first that answers not ok (R187). -/
def writesRun : List RegWrite → List Draw → Option Run
  | [], ans => some ⟨[], .ok, ans⟩
  | _ :: _, [] => none
  | (a, v) :: ws, d :: ans =>
    if d.ok then (writesRun ws ans).map (Run.after [.w a v])
    else some ⟨[.wFail a v], .transport, ans⟩

/-- `runIns(i)` (R187): address, buffers, command word, then the wait. -/
def runIns (c : Cfg) (d : Ins) (ans : List Draw) : Option Run :=
  andThen (writesRun (insWrites c d) ans) (waitRun c d.pk d.timeout)

/-- One element that is not the manufacturer step. -/
def runElem (c : Cfg) (e : Elem) (ans : List Draw) : Option Run :=
  match e with
  | .ins i => runIns c (i.ins c) ans
  | .poll pk t => waitRun c pk t ans
  | .mfr | .illegal _ => none

/-- Elements in order while the results are OK (R187). -/
def runElems (c : Cfg) : List Elem → List Draw → Option Run
  | [], ans => some ⟨[], .ok, ans⟩
  | e :: es, ans => andThen (runElem c e ans) (runElems c es)

/-- The manufacturer step, then the continuation of the bucket found (R243, R250, R251). -/
def runMfr (c : Cfg) (req : Request) (ans : List Draw) : Option Run :=
  match ans with
  | [] => none
  | d :: ans =>
    if d.ok then
      (runElems c (continuation req (bucketOf c (byteAt d.value c.mfrLsb))) ans).map
        (Run.after [.r c.aMfr d.value])
    else some ⟨[.rFail c.aMfr], .transport, ans⟩

/-- `runOp(request)` after the refusal tests (R187): each element of the expansion, the manufacturer
step where it stands. -/
def runOp (c : Cfg) (req : Request) : List Elem → List Draw → Option Run
  | [], ans => some ⟨[], .ok, ans⟩
  | .mfr :: _, ans => runMfr c req ans
  | .ins i :: es, ans => andThen (runElem c (.ins i) ans) (runOp c req es)
  | .poll pk t :: es, ans => andThen (runElem c (.poll pk t) ans) (runOp c req es)
  | .illegal _ :: _, _ => none

end Sys2Proof.Machine
end

