-- ==== Sys2Proof/Safety.lean ====
section
/-! DEFINITION. What a good state is (R49 and the rules it gathers), which states are an engine's turn,
and the bound on the steps an operation has left (R371). -/
namespace Sys2Proof.Machine

/-- A queue element the rules give a step: its payload fits the buffer (R49 (d)), the manufacturer
step belongs to a request that has a continuation (R22). -/
def elemOk (req : Request) : Elem → Bool
  | .ins i => i.wf
  | .mfr => !(continuation req .generic).isEmpty
  | .poll _ _ => true
  | .illegal _ => false

/-- The phase fits the head of the queue (R21, R49 (a), (b), (c)). -/
def phaseOk (s : State) : Bool :=
  match s.ph, s.q with
  | .idle, [] | .done, [] => true
  | .mfr, .mfr :: _ => true
  | .addr, .ins i :: _ => (i.ins s.cfg).hasAddr
  | .buf, .ins i :: _ => decide (s.k < divUp (i.ins s.cfg).payload.length 4)
  | .issue, .ins _ :: _ => true
  | .wait, .ins i :: _ => decide (s.cnt ≤ (i.ins s.cfg).timeout)
  | .wait, .poll _ t :: _ => decide (s.cnt ≤ t)
  | _, _ => false

/-- At most one command is in flight, and only where the rules leave one (R43, R49 (e), R352). -/
def flightOk (s : State) : Bool :=
  match s.ph, s.q with
  | .wait, .ins _ :: _ =>
    match s.flight with
    | .doubtful _ => false
    | .clear | .running _ | .foreign _ => true
  | .idle, _ | .done, _ => s.tainted || decide (s.flight = .clear)
  | _, _ => decide (s.flight = .clear)

/-- The geometry is that of an allocated sector array (R29, R69), and a probed bank has one (R285). -/
def geometryOk (s : State) : Bool :=
  decide (s.sectors.length = s.flashSize / s.sectorSize) &&
    (!s.probed || decide (0 < s.sectorSize)) &&
    (!s.host.moves.contains .setProbed || decide (0 < s.sectorSize) ||
      decide (s.host.moves.head? = some .readId))

/-- The invariant of the machine. -/
def Inv (s : State) : Prop :=
  s.cfg.wf = true ∧ phaseOk s = true ∧ (s.q.all (elemOk s.req)) = true ∧ flightOk s = true ∧
    geometryOk s = true ∧ s.dev.flash.wf s.cfg = true

/-- It is the engine's turn: a request is in hand and has not ended (R371). -/
abbrev engineTurn (s : State) : Prop := s.ph ≠ .idle ∧ s.ph ≠ .done

/-- The steps one instruction takes at most: address, buffer words, command word, `timeout` reads and
the step that finds the count reached (R371). -/
def insBound (c : Cfg) (i : Instr) : Nat :=
  1 + divUp (i.ins c).payload.length 4 + 1 + (i.ins c).timeout + 1

/-- The steps an element takes at most, the manufacturer step without its continuation. -/
def elemBound (c : Cfg) : Elem → Nat
  | .ins i => insBound c i
  | .poll _ t => t + 1
  | .mfr => 1
  | .illegal _ => 0

/-- The steps a list of elements takes at most. -/
def elemsBound (c : Cfg) (es : List Elem) : Nat := (es.map (elemBound c)).sum

/-- The steps the longer continuation of a request takes at most (R245). -/
def continuationBound (c : Cfg) (req : Request) : Nat :=
  max (elemsBound c (continuation req .vendorA)) (elemsBound c (continuation req .generic))

/-- The steps the operation in hand still takes at most (R371). -/
def stepsBound (s : State) : Nat := elemsBound s.cfg s.q + continuationBound s.cfg s.req

/-- The free oracle answers, `d` now and `ds` after it (R78). -/
def Answered (s : State) (d : Draw) (ds : List Draw) : Prop := s.env.mode = .oracle ∧ s.env.tape = d :: ds

/-- The environment after one answer of the free oracle. -/
def Env.next (e : Env) (ds : List Draw) : Env := { e with tape := ds, draws := e.draws + 1 }

/-- The machine waits on `pk` with timeout `n`, and the next poll read answers ok with the bit clear
(R164). -/
def Hitting (pk : Signal) (n : Nat) (s : State) (d : Draw) (ds : List Draw) : Prop :=
  s.ph = .wait ∧ s.cnt ≠ n ∧ Answered s d ds ∧ d.ok = true ∧ pending s.cfg pk d.value = false

/-- The machine waits for instruction `i`, and the next poll read answers ok with its bit clear (R164). -/
def Completing (i : Instr) (s : State) (d : Draw) (ds : List Draw) : Prop :=
  Hitting (i.ins s.cfg).pk (i.ins s.cfg).timeout s d ds

/-- The device is ready for an erase or a program under the free oracle: write-enabled, and no bit of
status register 1 set that could protect it (R343, log 10). -/
def Ready (s : State) : Prop := s.dev.wel = true ∧ s.dev.sr1 = 0#8

/-- The request `r` is what the host submits next: as the next move of its call (R271, R277, R279, R285),
as a bare request, or as the chip erase that `massErase` is (R272). -/
def Submitting (r : Request) (s : State) : Prop :=
  s.ph = .idle ∧
    ((∃ ms, s.host.moves = .submit r :: ms) ∨
      (s.host.moves = [] ∧ ∃ cs, s.host.inbox = .request r :: cs) ∨
      (s.host.moves = [] ∧ r = .eraseChip ∧ ∃ cs, s.host.inbox = .massErase :: cs))

/-- The host without the move, or else the call, that it takes up next. -/
def State.hostAfter (s : State) : HostCtx :=
  match s.host.moves with
  | _ :: ms => { s.host with moves := ms }
  | [] => { s.host with inbox := s.host.inbox.tail }

/-- The flag `erased` of sector `i`. -/
def erasedFlag (s : State) (i : Nat) : Option Tri := (s.sectors[i]?).map Sector.erased

/-- The flag `protected` of sector `i`. -/
def protFlag (s : State) (i : Nat) : Option Tri := (s.sectors[i]?).map Sector.prot

/-- What the controller takes an instruction for: the instruction, but a program of no bytes is one of
the byte `buffer[0]` holds (R106, log 8). -/
def asSeen (buf : List Word) : Instr → Instr
  | .pp a [] => .pp a [laneOf buf 0]
  | i => i

end Sys2Proof.Machine
end

