-- ==== Sys2Proof/Certificates/Slice0/Obligations.lean ====
section
/-! DEFINITION. The statements for the provers. -/
open Sys2Proof Sys2Proof.Machine

/-! ### The command word and the encoder -/

/-- The laws of the encoder, for every well-formed configuration and all operands in range (R143): (a)
field read-back, (b) zero elsewhere, (c) injectivity up to the zero case, (d) staging read-back, (e) the
staged addresses. -/
def Obligations.EncoderLaws : Prop :=
  ∀ c : Cfg, c.wf = true →
    (∀ id a w d p n, n ≤ bufBytes →
      dec c (enc c id a w d p n) =
        ⟨true, p, if 1 ≤ n then BitVec.ofNat 8 (n - 1) else 0#8, a, w, d, id⟩) ∧
    (∀ id a w d p n, n ≤ bufBytes → enc c id a w d p n &&& ~~~(fieldMask c) = 0#32) ∧
    (∀ id a w d p n id' a' w' d' p' n', n ≤ bufBytes → n' ≤ bufBytes →
      (enc c id a w d p n = enc c id' a' w' d' p' n' ↔
        id = id' ∧ a = a' ∧ w = w' ∧ d = d' ∧ p = p' ∧
          (n = n' ∨ (n = 0 ∧ n' = 1) ∨ (n = 1 ∧ n' = 0)))) ∧
    (∀ p : List Byte, p.length ≤ bufBytes →
      (∀ i (h : i < p.length), laneOf (stageWords p) i = p[i]) ∧
      (∀ i, p.length ≤ i → i < 4 * divUp p.length 4 → laneOf (stageWords p) i = 0#8) ∧
      (stageWords p).length = divUp p.length 4 ∧ divUp p.length 4 ≤ bufWords) ∧
    (∀ p : List Byte, p.length ≤ bufBytes →
      (∀ a ∈ (stage c p).map Prod.fst, ∃ k < bufWords, a = bufAddr c k) ∧
      ((stage c p).map Prod.fst).Pairwise (fun a b => a.toNat < b.toNat))

/-- A byte count of 0 omits LENGTH (R106): the word is that of one byte, its LENGTH bits are 0, and no
buffer word is staged where one byte stages one. -/
def Obligations.ZeroBytesOmitLength : Prop :=
  ∀ (c : Cfg) (id : Byte) (a w d p : Bool),
    enc c id a w d p 0 = enc c id a w d p 1 ∧
    lengthField c 0 = 0#32 ∧ lengthField c 1 = 0#32 ∧
    stage c [] = [] ∧ ∀ b, (stage c [b]).length = 1

/-- Decoding the register writes of an encoded instruction gives the instruction back, with every
operand, for every well-formed instruction and configuration (R110, R115, R187). -/
def Obligations.DecodeOfEncode : Prop :=
  ∀ (c : Cfg) (i : Instr), c.wf = true → i.wf = true → decode c (encode c i) = .ok i

/-- Every command word the decoder accepts is one the encoder produces for that row, with every named
bit as the table has it and every other bit 0 (R111, R115); that a word with an unnamed bit set is none of
this block's is the model's choice (log 50). -/
def Obligations.AcceptedWordsAreEncoded : Prop :=
  ∀ (c : Cfg) (w : Word) (m : Mnemonic), c.wf = true → commandOf c w = .ok m →
    ∃ n, 1 ≤ n ∧ n ≤ bufBytes ∧ lengthAllowed m (BitVec.ofNat 8 (n - 1)) = true ∧
      w = enc c (row c m).id (row c m).hasAddr (row c m).hasWr (row c m).hasData (row c m).poll n

/-- No two rows of the command table share a word (R8 (d), R110). -/
def Obligations.RowsDoNotOverlap : Prop :=
  ∀ (c : Cfg) (f : Fields) (m m' : Mnemonic), c.wf = true →
    rowMatches c f m = true → rowMatches c f m' = true → m = m'

/-- The controller decodes the command word of an instruction whose operands are staged as that
instruction; a program of no bytes as one of the byte buffer[0] holds (R80, R106; log 8). -/
def Obligations.ControllerDecodesTheInstruction : Prop :=
  ∀ (c : Cfg) (i : Instr) (addr : Word) (buf : List Word), c.wf = true → i.wf = true →
    ((i.ins c).hasAddr = true → addr = i.address) →
    (∀ k < divUp i.payload.length 4, buf[k]? = some (stageWord i.payload k)) →
    decodeStaged c (encIns c (i.ins c)) addr buf = some (asSeen buf i)

/-- The words R110 and 95_test_vectors.md print decode to the instructions they stand for; a word with
the id of WRSR1 and no phase flag, and a word with ACT = 0, decode to none. -/
def Obligations.TableWordsDecode : Prop :=
  decodeTableWord 32 0xC0000006 = some .wren ∧
  decodeTableWord 32 0xC0000420 = some (.se 0#32) ∧
  decodeTableWord 32 0xC00000C7 = some .ce ∧
  decodeTableWord 32 0xC0040702 = some (.pp 0#32 [0#8, 0#8, 0#8, 0#8, 0#8]) ∧
  decodeTableWord 32 0xC0000301 = some (.wrsr1 0#8) ∧
  decodeTableWord 32 0xC0000331 = some (.wrsr2 0#8) ∧
  decodeTableWord 32 0xC0010301 = some (.wrsr1w 0#8 0#8) ∧
  decodeTableWord 32 0xC0000001 = none ∧ decodeTableWord 32 0x40000006 = none

/-! ### Running an instruction -/

/-- A step runs the instruction at the head of the queue in every phase that stands for one of its
transactions (R41). -/
def Obligations.StepRunsTheHead : Prop :=
  ∀ (s : State) (i : Instr) (es : List Elem), s.q = .ins i :: es →
    s.ph = .addr ∨ s.ph = .buf ∨ s.ph = .issue ∨ s.ph = .wait → step s = exec i s

/-- The instruction a word decodes to is what the very next step runs after `withFetchWord`; a word
that decodes to none is refused by name (log 7, R111). -/
def Obligations.StepRunsThePlacedWord : Prop :=
  ∀ (s : State) (nbits w : Nat),
    (∀ i, decodeBits s.cfg nbits w = some i →
      (s.withFetchWord nbits w).q = [.ins i] ∧
      step (s.withFetchWord nbits w) = exec i (s.withFetchWord nbits w)) ∧
    (decodeBits s.cfg nbits w = none →
      step (s.withFetchWord nbits w) = .refused (.notOfThisBlock (BitVec.ofNat 32 w)))

/-- Phase ADDR (R182): the address register takes the operand unchanged and the next phase is BUF with
`k = 0` or ISSUE; a failed write aborts with ERR_TRANSPORT. Everything else is as before. -/
def Obligations.AddressPhase : Prop :=
  ∀ (i : Instr) (s : State) (d : Draw) (ds : List Draw),
    s.ph = .addr → (i.ins s.cfg).hasAddr = true → Answered s d ds →
    (d.ok = true → exec i s = .next { s with
      regs := { s.regs with addr := i.address }
      env := s.env.next ds
      trace := s.trace ++ [.w s.cfg.aAddr i.address]
      k := if i.payload ≠ [] then 0 else s.k
      ph := if i.payload ≠ [] then .buf else .issue }) ∧
    (d.ok = false → ∃ t, exec i s = .next t ∧ t.ph = .done ∧ t.res = .transport ∧ t.q = [] ∧
      t.tainted = s.tainted ∧ t.trace = s.trace ++ [.wFail s.cfg.aAddr i.address])

/-- Phase BUF (R183): entry `k` of `stage(payload)` is written, `buffer[k]` takes staged word `k`, `k`
counts up, the last word leads to ISSUE; a failed write aborts with ERR_TRANSPORT. Everything else is as
before. -/
def Obligations.BufferPhase : Prop :=
  ∀ (i : Instr) (s : State) (d : Draw) (ds : List Draw),
    s.ph = .buf → s.k < divUp i.payload.length 4 → Answered s d ds →
    (stage s.cfg i.payload)[s.k]? = some (bufAddr s.cfg s.k, stageWord i.payload s.k) ∧
    (d.ok = true → exec i s = .next { s with
      regs := { s.regs with buf := s.regs.buf.setIfInBounds s.k (stageWord i.payload s.k) }
      env := s.env.next ds
      trace := s.trace ++ [.w (bufAddr s.cfg s.k) (stageWord i.payload s.k)]
      k := s.k + 1
      ph := if s.k + 1 = divUp i.payload.length 4 then .issue else .buf }) ∧
    (d.ok = false → ∃ t, exec i s = .next t ∧ t.ph = .done ∧ t.res = .transport ∧ t.q = [] ∧
      t.tainted = s.tainted ∧
      t.trace = s.trace ++ [.wFail (bufAddr s.cfg s.k) (stageWord i.payload s.k)])

/-- Phase ISSUE (R184): the one write of the command word, after which `cnt = 0` and the phase is WAIT;
a failed write sets `tainted` and aborts with ERR_TRANSPORT. The command in flight is the one the
controller decodes; everything else is as before. It is the model's choice that right after the command
write the device (log 9) and the status register (log 16) are as before. -/
def Obligations.IssuePhase : Prop :=
  ∀ (i : Instr) (s : State) (d : Draw) (ds : List Draw),
    s.cfg.wf = true → i.wf = true → s.ph = .issue → s.flight = .clear → Answered s d ds →
    (d.ok = true → exec i s = .next { s with
      regs := { s.regs with cmd := encIns s.cfg (i.ins s.cfg) }
      flight := match decodeStaged s.cfg (encIns s.cfg (i.ins s.cfg)) s.regs.addr s.regs.buf.toList with
        | some j => .running j
        | none => .foreign (encIns s.cfg (i.ins s.cfg))
      issued := true
      env := s.env.next ds
      trace := s.trace ++ [.w s.cfg.aCmd (encIns s.cfg (i.ins s.cfg))]
      cnt := 0
      ph := .wait }) ∧
    (d.ok = false → ∃ t, exec i s = .next t ∧ t.ph = .done ∧ t.res = .transport ∧ t.q = [] ∧
      t.tainted = true ∧ t.trace = s.trace ++ [.wFail s.cfg.aCmd (encIns s.cfg (i.ins s.cfg))])

/-- Phase WAIT (R164), of an instruction and of the bare poller that `waitAct` and `waitIdle` are (log 40):
the count is compared first, then the read is made, then `ok` is tested, then the polled bit. The model's
choice: nothing of the device changes at a read that shows the bit set (log 9); ACT read as set before the
first ISSUE since reset sets `tainted` (R47, log 14); a bare wait that fails or times out sets `tainted` as
any other does (R302, R303, log 42). -/
def Obligations.WaitPhase : Prop :=
  let waits := fun (s : State) (pk : Signal) (n : Nat) (o : Host.Outcome State Fault Refusal) =>
    (s.cnt = n → ∃ t, o = .next t ∧ t.res = .busy ∧ t.ph = .done ∧
      t.q = [] ∧ t.tainted = true ∧ t.trace = s.trace ∧ t.regs = s.regs ∧ t.env = s.env) ∧
    (∀ d ds, s.cnt ≠ n → Answered s d ds →
      (d.ok = false → ∃ t, o = .next t ∧ t.res = .transport ∧ t.ph = .done ∧ t.q = [] ∧
        t.tainted = true ∧ t.trace = s.trace ++ [.rFail ((pollReg pk).address s.cfg)]) ∧
      (d.ok = true → pending s.cfg pk d.value = true →
        ∃ t, o = .next t ∧ t.cnt = s.cnt + 1 ∧ t.ph = .wait ∧ t.q = s.q ∧ t.dev = s.dev ∧
          t.flight = s.flight ∧ t.issued = s.issued ∧ t.sectors = s.sectors ∧
          (pk = .act → s.issued = false → t.tainted = true) ∧
          (pk = .idle ∨ s.issued = true → t.tainted = s.tainted) ∧
          t.trace = s.trace ++ [.r ((pollReg pk).address s.cfg) d.value]) ∧
      (d.ok = true → pending s.cfg pk d.value = false →
        ∃ t, o = .next t ∧ t.q = s.q.tail ∧ t.tainted = s.tainted ∧
          t.trace = s.trace ++ [.r ((pollReg pk).address s.cfg) d.value] ∧
          (s.q.tail = [] → t.ph = .done ∧ t.res = .ok)))
  (∀ (i : Instr) (s : State), s.ph = .wait →
    waits s (i.ins s.cfg).pk (i.ins s.cfg).timeout (exec i s)) ∧
  ∀ (s : State) (pk : Signal) (n : Nat) (es : List Elem), s.ph = .wait → s.q = .poll pk n :: es →
    waits s pk n (step s) ∧
    (s.env.mode = .oracle → s.flight = .clear → ∀ t, step s = .next t → t.dev = s.dev)

/-- End of an instruction (R185): the queue loses its head; an empty queue ends the operation OK with
its success effects on the sector flags, otherwise the new head begins in the same step; the poll read is
the step's only transaction. -/
def Obligations.EndOfInstruction : Prop :=
  ∀ (i : Instr) (s : State) (d : Draw) (ds : List Draw), Completing i s d ds →
    ∃ t, exec i s = .next t ∧ t.q = s.q.tail ∧
      t.trace = s.trace ++ [.r ((pollReg (i.ins s.cfg).pk).address s.cfg) d.value] ∧
      (s.q.tail = [] → t.ph = .done ∧ t.res = .ok ∧ t.sectors = s.sectorsAfter .ok) ∧
      (∀ j es, s.q.tail = .ins j :: es → t.sectors = s.sectors ∧ t.res = s.res ∧
        ((j.ins s.cfg).hasAddr = true → t.ph = .addr) ∧
        ((j.ins s.cfg).hasAddr = false → j.payload ≠ [] → t.ph = .buf ∧ t.k = 0) ∧
        ((j.ins s.cfg).hasAddr = false → j.payload = [] → t.ph = .issue)) ∧
      (∀ es, s.q.tail = .mfr :: es → t.ph = .mfr ∧ t.sectors = s.sectors)

/-! ### What the instructions do to the device when they complete -/

/-- WREN completes (R190, R44): the latch is set, nothing else of the device changes. That the effect is
there at the read that shows the bit clear is the model's choice in this and the next four (log 9), and
so is that a latch already set stays set (log 48). -/
def Obligations.WrenCompletes : Prop :=
  ∀ (s : State) (d : Draw) (ds : List Draw), Completing .wren s d ds → s.flight = .running .wren →
    ∃ t, exec .wren s = .next t ∧ t.flight = .clear ∧ t.q = s.q.tail ∧
      t.dev = { s.dev with wel := true } ∧ t.trace = s.trace ++ [.r s.cfg.aCmd d.value]

/-- SE completes on a ready device (R200; `Ready` is log 10's): every byte of the sector at `a` holds the
erased-state value, every other byte is as before; the latch is clear, the status registers unchanged. -/
def Obligations.SectorEraseCompletes : Prop :=
  ∀ (a : Word) (s : State) (d : Draw) (ds : List Draw), Completing (.se a) s d ds →
    s.flight = .running (.se a) → Ready s →
    a.toNat % s.cfg.sectorSize = 0 → a.toNat < s.cfg.flashSize →
    ∃ t, exec (.se a) s = .next t ∧ t.flight = .clear ∧ t.q = s.q.tail ∧
      t.dev.wel = false ∧ t.dev.sr1 = s.dev.sr1 ∧ t.dev.sr2 = s.dev.sr2 ∧
      ∀ x, t.dev.flash.read s.cfg x =
        if a.toNat ≤ x ∧ x < a.toNat + s.cfg.sectorSize then s.cfg.erasedByte
        else s.dev.flash.read s.cfg x

/-- CE completes on a ready device (R201; log 10): every byte holds the erased-state value. -/
def Obligations.ChipEraseCompletes : Prop :=
  ∀ (s : State) (d : Draw) (ds : List Draw), Completing .ce s d ds →
    s.flight = .running .ce → Ready s →
    ∃ t, exec .ce s = .next t ∧ t.flight = .clear ∧ t.q = s.q.tail ∧
      t.dev.wel = false ∧ t.dev.sr1 = s.dev.sr1 ∧ t.dev.sr2 = s.dev.sr2 ∧
      ∀ x, t.dev.flash.read s.cfg x = s.cfg.erasedByte

/-- PP completes on a ready device (R220; log 10, log 36): byte `b + j` becomes the and of its old value
and byte `j` of what the controller took as the payload, every other byte is as before. -/
def Obligations.PageProgramCompletes : Prop :=
  ∀ (a b : Word) (p p' : List Byte) (s : State) (d : Draw) (ds : List Draw),
    Completing (.pp a p) s d ds → s.flight = .running (.pp b p') → Ready s →
    b.toNat + p'.length ≤ s.cfg.flashSize →
    ∃ t, exec (.pp a p) s = .next t ∧ t.flight = .clear ∧ t.q = s.q.tail ∧
      t.dev.wel = false ∧ t.dev.sr1 = s.dev.sr1 ∧ t.dev.sr2 = s.dev.sr2 ∧
      ∀ x, t.dev.flash.read s.cfg x =
        if b.toNat ≤ x ∧ x < b.toNat + p'.length then
          s.dev.flash.read s.cfg x &&& p'[x - b.toNat]?.getD 0#8
        else s.dev.flash.read s.cfg x

/-- The status writes complete on a write-enabled device whose status registers follow a known layout
(R240, R241, R242; log 32): status register 1 becomes `b`, status register 2 becomes `b`, both become `b0`
and `b1` (that WRSR1W writes both under the free oracle is the deduction of log 35); the flash array is
unchanged. -/
def Obligations.StatusWritesComplete : Prop :=
  ∀ (b b0 b1 : Byte) (s : State) (d : Draw) (ds : List Draw), s.dev.wel = true →
    s.cfg.layoutKnown = true →
    (Completing (.wrsr1 b) s d ds → s.flight = .running (.wrsr1 b) →
      ∃ t, exec (.wrsr1 b) s = .next t ∧ t.flight = .clear ∧ t.q = s.q.tail ∧
        t.dev = { s.dev with sr1 := b, wel := false }) ∧
    (Completing (.wrsr2 b) s d ds → s.flight = .running (.wrsr2 b) →
      ∃ t, exec (.wrsr2 b) s = .next t ∧ t.flight = .clear ∧ t.q = s.q.tail ∧
        t.dev = { s.dev with sr2 := b, wel := false }) ∧
    (Completing (.wrsr1w b0 b1) s d ds → s.flight = .running (.wrsr1w b0 b1) →
      ∃ t, exec (.wrsr1w b0 b1) s = .next t ∧ t.flight = .clear ∧ t.q = s.q.tail ∧
        t.dev = { s.dev with sr1 := b0, sr2 := b1, wel := false })

/-- Where the spec leaves the effect open the instruction still completes and the content is free (log
10, log 11; U7, U13): an erase or program without write-enable or of a possibly protected device, a
misaligned or out-of-range erase, a program beyond the array; a status write without write-enable, or of a
device whose status registers follow no known layout (R362, U2, log 32). It is the model's choice that
such a status write leaves the flash array as it was (log 10, log 32): U13 leaves the device's content any
value. -/
def Obligations.OpenEffectsAreFree : Prop :=
  ∀ (i j : Instr) (s : State) (d : Draw) (ds : List Draw), Completing i s d ds →
    s.flight = .running j →
    ((∃ a, j = .se a ∧ (¬ Ready s ∨ a.toNat % s.cfg.sectorSize ≠ 0 ∨ s.cfg.flashSize ≤ a.toNat)) ∨
      (j = .ce ∧ ¬ Ready s) ∨
      (∃ a p, j = .pp a p ∧ (¬ Ready s ∨ s.cfg.flashSize < a.toNat + p.length)) →
      ∃ t, exec i s = .next t ∧ t.flight = .clear ∧ t.q = s.q.tail ∧
        ∀ x, t.dev.flash.read s.cfg x = Config.freeByte (s.env.draws + 1) x) ∧
    ((∃ b, j = .wrsr1 b ∨ j = .wrsr2 b) ∨ (∃ b0 b1, j = .wrsr1w b0 b1) →
      s.dev.wel = false ∨ s.cfg.layoutKnown = false →
      ∃ t, exec i s = .next t ∧ t.flight = .clear ∧ t.dev.flash = s.dev.flash ∧
        t.dev.sr1 = Config.freeSr (s.env.draws + 1) 1 ∧ t.dev.sr2 = Config.freeSr (s.env.draws + 1) 2)

/-! ### Frames -/

/-- What no step of an instruction changes: the configuration, the chip state but the `erased` flags,
the request, the host, the cache, the controller's config, cache-control and ID registers; the flags and
the result register before DONE; the command and status registers, the command in flight and the poll
count while the operands are written. -/
def Obligations.InstructionFrame : Prop :=
  ∀ (i : Instr) (s t : State), exec i s = .next t →
    t.cfg = s.cfg ∧ t.probed = s.probed ∧ t.sectorSize = s.sectorSize ∧ t.flashSize = s.flashSize ∧
    t.sectors.map Sector.prot = s.sectors.map Sector.prot ∧ t.req = s.req ∧ t.host = s.host ∧
    t.cacheOn = s.cacheOn ∧ t.regs.cfg = s.regs.cfg ∧ t.regs.cache = s.regs.cache ∧
    t.regs.id = s.regs.id ∧ (t.ph ≠ .done → t.sectors = s.sectors ∧ t.res = s.res) ∧
    (s.ph = .addr ∨ s.ph = .buf → t.regs.cmd = s.regs.cmd ∧ t.regs.status = s.regs.status ∧
      t.flight = s.flight ∧ t.cnt = s.cnt ∧ t.issued = s.issued)

/-- The operand registers: WREN, CE and the status writes never write the address register; WREN, SE
and CE never write a buffer register; PP and the status writes write none beyond their payload's words
(R36, R37, R190, R200, R201, R228). -/
def Obligations.OperandRegisterFrame : Prop :=
  ∀ (s t : State),
    (∀ i, i = .wren ∨ i = .ce ∨ (∃ b, i = .wrsr1 b) ∨ (∃ b, i = .wrsr2 b) ∨ (∃ b0 b1, i = .wrsr1w b0 b1) →
      exec i s = .next t → t.regs.addr = s.regs.addr) ∧
    (∀ i, i = .wren ∨ i = .ce ∨ (∃ a, i = .se a) → exec i s = .next t → t.regs.buf = s.regs.buf) ∧
    (∀ (i : Instr) (k : Nat), exec i s = .next t → divUp i.payload.length 4 ≤ k →
      t.regs.buf[k]? = s.regs.buf[k]?)

/-- The flash array and the device outside a completion, under the free oracle: no transaction but the
poll read that shows the bit clear changes the device (the model's choice, log 9 and log 15; `Ready` is
log 10's); when one completes WREN or a status write no byte of the array changes, when one completes SE,
CE or PP with a defined effect only the bytes of that instruction change. -/
def Obligations.FlashFrame : Prop :=
  ∀ (i : Instr) (s t : State), s.env.mode = .oracle → exec i s = .next t →
    (s.ph ≠ .wait → t.dev = s.dev) ∧
    (s.flight = .clear → t.dev = s.dev) ∧
    (s.ph = .wait → s.cnt = (i.ins s.cfg).timeout → t.dev = s.dev) ∧
    (∀ d ds, Answered s d ds → d.ok = false → t.dev = s.dev) ∧
    (∀ d ds, s.ph = .wait → Answered s d ds → pending s.cfg (i.ins s.cfg).pk d.value = true →
      t.dev = s.dev) ∧
    ((s.flight = .running .wren ∨ (∃ b, s.flight = .running (.wrsr1 b)) ∨
        (∃ b, s.flight = .running (.wrsr2 b)) ∨ (∃ b0 b1, s.flight = .running (.wrsr1w b0 b1))) →
      ∀ x, t.dev.flash.read s.cfg x = s.dev.flash.read s.cfg x) ∧
    (∀ a, s.flight = .running (.se a) → Ready s → a.toNat % s.cfg.sectorSize = 0 →
      a.toNat < s.cfg.flashSize → ∀ x, x < a.toNat ∨ a.toNat + s.cfg.sectorSize ≤ x →
      t.dev.flash.read s.cfg x = s.dev.flash.read s.cfg x) ∧
    (∀ a p, s.flight = .running (.pp a p) → Ready s → a.toNat + p.length ≤ s.cfg.flashSize →
      ∀ x, x < a.toNat ∨ a.toNat + p.length ≤ x →
      t.dev.flash.read s.cfg x = s.dev.flash.read s.cfg x)

/-! ### Failures -/

/-- Abort (R310, R302, R303): a failure of an instruction's step empties the queue, records the result,
goes to DONE, sets `tainted` for ERR_BUSY and for ERR_TRANSPORT in ISSUE or WAIT only, and marks the
targeted sectors unknown; the command in flight is not cancelled. That the device is as before is the
model's choice: after a failed ISSUE log 15's, after a failed poll or a timeout log 9's (R81, U1). -/
def Obligations.AbortIsPrecise : Prop :=
  ∀ (i : Instr) (s t : State), exec i s = .next t → t.ph = .done → t.res ≠ .ok →
    t.q = [] ∧ (t.res = .transport ∨ t.res = .busy) ∧
    (t.tainted = true ↔ s.tainted = true ∨ t.res = .busy ∨ s.ph = .issue ∨ s.ph = .wait) ∧
    t.sectors = s.sectorsAfter t.res ∧
    (s.env.mode = .oracle → t.dev = s.dev) ∧ (s.ph = .wait → s.env.mode = .oracle → t.flight = s.flight)

/-- After a write that answered not ok the register holds a free value, and on the command register a
command may or may not have started (R81, log 15). -/
def Obligations.FailedWriteLeavesFreeValue : Prop :=
  ∀ (i : Instr) (s : State) (d : Draw) (ds : List Draw), Answered s d ds → d.ok = false →
    (s.ph = .addr → (i.ins s.cfg).hasAddr = true →
      ∃ t, exec i s = .next t ∧ t.regs = { s.regs with addr := Config.freeWord s.env.draws }) ∧
    (s.ph = .buf → s.k < divUp i.payload.length 4 →
      ∃ t, exec i s = .next t ∧
        t.regs = { s.regs with buf := s.regs.buf.setIfInBounds s.k (Config.freeWord s.env.draws) }) ∧
    (s.ph = .issue → s.flight = .clear →
      ∃ t, exec i s = .next t ∧ t.regs = { s.regs with cmd := Config.freeWord s.env.draws } ∧
        t.flight = .doubtful (encIns s.cfg (i.ins s.cfg)))

/-- A command is never issued over another (R352, U10): the step is refused by name (log 17). -/
def Obligations.NoIssueOverACommandInFlight : Prop :=
  ∀ (i : Instr) (s : State), s.ph = .issue →
    (exec i s = .refused .commandInFlight ↔ s.flight ≠ .clear)

/-! ### Sector flags -/

/-- Sector flags on success (R206, R226): the end of an operation's last instruction, or of its bare wait,
marks the erased sector or sectors YES, every sector a program touched NO, and no other sector's flag; the
other requests, the waits among them, change no flag (R254; an instruction issued singly, log 41). -/
def Obligations.SectorFlagsOnSuccess : Prop :=
  let marked := fun (s t : State) => t.res = .ok ∧ ∀ n, n < s.sectors.length →
      (∀ off, s.req = .eraseSector off → erasedFlag t n =
        if n = off.toNat / s.sectorSize then some .yes else erasedFlag s n) ∧
      (s.req = .eraseChip → erasedFlag t n = some .yes) ∧
      (∀ a p, s.req = .pageProgram a p → erasedFlag t n =
        if a.toNat / s.sectorSize ≤ n ∧ n ≤ (a.toNat + max p.length 1 - 1) / s.sectorSize then some .no
        else erasedFlag s n) ∧
      (s.req = .writeEnable ∨ s.req = .quadEnable ∨ s.req = .protectDisable ∨
        (∃ m, s.req = .waitAct m) ∨ (∃ m, s.req = .waitIdle m) ∨ (∃ j, s.req = .single j) →
        erasedFlag t n = erasedFlag s n)
  (∀ (i : Instr) (s : State) (d : Draw) (ds : List Draw), Completing i s d ds → s.q.tail = [] →
    ∃ t, exec i s = .next t ∧ marked s t) ∧
  ∀ (pk : Signal) (n : Nat) (s : State) (d : Draw) (ds : List Draw), Hitting pk n s d ds →
    s.q = [.poll pk n] → ∃ t, step s = .next t ∧ marked s t

/-- Sector flags on failure (R207, R226): after ERR_TRANSPORT or ERR_BUSY, of an instruction or of a bare
wait, every targeted sector's flag is UNKNOWN and no other flag has changed; the other requests, the waits
among them, change no flag (R254; log 41). -/
def Obligations.SectorFlagsOnFailure : Prop :=
  let marked := fun (s t : State) => t.ph = .done → t.res = .transport ∨ t.res = .busy →
    ∀ n, n < s.sectors.length →
      (∀ off, s.req = .eraseSector off → erasedFlag t n =
        if n = off.toNat / s.sectorSize then some .unknown else erasedFlag s n) ∧
      (s.req = .eraseChip → erasedFlag t n = some .unknown) ∧
      (∀ a p, s.req = .pageProgram a p → erasedFlag t n =
        if a.toNat / s.sectorSize ≤ n ∧ n ≤ (a.toNat + max p.length 1 - 1) / s.sectorSize then some .unknown
        else erasedFlag s n) ∧
      (s.req = .writeEnable ∨ s.req = .quadEnable ∨ s.req = .protectDisable ∨
        (∃ m, s.req = .waitAct m) ∨ (∃ m, s.req = .waitIdle m) ∨ (∃ j, s.req = .single j) →
        erasedFlag t n = erasedFlag s n)
  (∀ (i : Instr) (s t : State), exec i s = .next t → marked s t) ∧
  ∀ (pk : Signal) (n : Nat) (es : List Elem) (s t : State), s.ph = .wait → s.q = .poll pk n :: es →
    step s = .next t → marked s t

/-! ### Accepting a request, collecting a result -/

/-- The gate of `probed` (R304): `eraseSector`, `eraseChip` and `pageProgram` before a probe end with
ERR_PROTOCOL(NOT_PROBED), without a transaction and without changing a flag; the other requests are not
gated. What the queue holds for the two waits (log 40), and that `encode` and `stage` answer OK in the
step that accepts them (log 25), is the model's choice. -/
def Obligations.ProbedGate : Prop :=
  ∀ (r : Request) (s : State), Submitting r s → s.tainted = false → s.probed = false →
    ((∃ off, r = .eraseSector off) ∨ r = .eraseChip ∨ (∃ a p, r = .pageProgram a p) →
      ∃ t, step s = .next t ∧ t.ph = .done ∧ t.res = .protocol .notProbed ∧ t.trace = [] ∧
        t.sectors = s.sectors ∧ t.tainted = false ∧ t.probed = false ∧ t.regs = s.regs ∧
        t.dev = s.dev ∧ t.flight = s.flight ∧ t.env = s.env) ∧
    (r = .writeEnable ∨ r = .quadEnable ∨ r = .protectDisable ∨ (∃ n, r = .waitAct n) ∨
        (∃ n, r = .waitIdle n) →
      ∃ t, step s = .next t ∧ t.q = expansion s.cfg r ∧ t.req = r ∧ t.ph ≠ .done) ∧
    ((∃ id a w d p n, r = .encode id a w d p n ∧ n ≤ bufBytes) ∨
        (∃ p, r = .stage p ∧ p.length ≤ bufBytes) → ∃ t, step s = .next t ∧ t.res = .ok)

/-- Order of the tests at acceptance (R308 (1)): NOT_PROBED, then BAD_LENGTH, then PROTECTED. A program
is refused for any touched sector that is protected, `eraseSector` for its own, `eraseChip` for any of
the array (R202, R203, R305); UNKNOWN and NO do not refuse. No refusal makes a transaction or changes a
flag. -/
def Obligations.AcceptanceTestsInOrder : Prop :=
  ∀ (s : State), s.tainted = false →
    let refused := fun (t : State) (c : Cause) =>
      t.res = .protocol c ∧ t.ph = .done ∧ t.trace = [] ∧ t.sectors = s.sectors ∧ t.tainted = false
    (∀ a p, Submitting (.pageProgram a p) s →
      let touched := fun n =>
        a.toNat / s.sectorSize ≤ n ∧ n ≤ (a.toNat + max p.length 1 - 1) / s.sectorSize
      ∀ t, step s = .next t →
        (s.probed = false → refused t .notProbed) ∧
        (s.probed = true → bufBytes < p.length → refused t .badLength) ∧
        (s.probed = true → p.length ≤ bufBytes →
          (∃ n, touched n ∧ protFlag s n = some .yes) → refused t .protectedSector) ∧
        (s.probed = true → p.length ≤ bufBytes →
          (¬ ∃ n, touched n ∧ protFlag s n = some .yes) → t.ph ≠ .done)) ∧
    (∀ off, Submitting (.eraseSector off) s → s.probed = true →
      (protFlag s (off.toNat / s.sectorSize) = some .yes →
        ∃ t, step s = .next t ∧ refused t .protectedSector) ∧
      (protFlag s (off.toNat / s.sectorSize) ≠ some .yes → ∀ t, step s = .next t → t.ph ≠ .done)) ∧
    (Submitting .eraseChip s → s.probed = true →
      ((∃ n, protFlag s n = some .yes) → ∃ t, step s = .next t ∧ refused t .protectedSector) ∧
      ((¬ ∃ n, protFlag s n = some .yes) → ∃ t, step s = .next t ∧ t.ph ≠ .done))

/-- Accepting a request (R180), a bare one or the next move of a call: `req` is latched, the queue is the
expansion, written out as R114 lists it, its head begins, no transaction is performed, the host has given
it up. The one-element queues of the waits and of an
instruction issued singly are the model's (log 40, log 7). -/
def Obligations.AcceptanceLoadsTheExpansion : Prop :=
  ∀ (r : Request) (s : State), Submitting r s → s.tainted = false → s.refusalCause r = none →
    precondition s.sectorSize s.flashSize r = true → expansion s.cfg r ≠ [] →
    ∃ t, step s = .next t ∧ t.req = r ∧ t.q = expansion s.cfg r ∧ t.trace = [] ∧ t.regs = s.regs ∧
      t.dev = s.dev ∧ t.env = s.env ∧ t.sectors = s.sectors ∧ t.host = s.hostAfter ∧
      (r = .writeEnable ∨ r = .quadEnable ∨ r = .protectDisable ∨ r = .eraseChip ∨
        (∃ off, r = .eraseSector off) → t.ph = .issue) ∧
      (∀ a p, r = .pageProgram a p → t.ph = if s.cfg.ppWrenPrefix then .issue else .addr) ∧
      ((∃ n, r = .waitAct n) ∨ (∃ n, r = .waitIdle n) → t.ph = .wait ∧ t.cnt = 0) ∧
      (r = .writeEnable → t.q = [.ins .wren]) ∧
      (∀ off, r = .eraseSector off → t.q = [.ins .wren, .ins (.se off)]) ∧
      (r = .eraseChip → t.q = [.ins .wren, .ins .ce]) ∧
      (∀ a p, r = .pageProgram a p → t.q =
        if s.cfg.ppWrenPrefix then [.ins .wren, .ins (.pp a p)] else [.ins (.pp a p)]) ∧
      (r = .quadEnable ∨ r = .protectDisable → t.q = [.ins .wren, .mfr]) ∧
      (∀ n, r = .waitAct n → t.q = [.poll .act n]) ∧
      (∀ n, r = .waitIdle n → t.q = [.poll .idle n]) ∧
      (∀ i, r = .single i → t.q = [.ins i] ∧ t.ph = if (i.ins s.cfg).hasAddr then .addr
        else if i.payload ≠ [] then .buf else .issue)

/-- `encode` and `stage` answer at once with the values of R140 and R141 and change nothing else of the
machine; that the host's result registers hold the values, and that a byte count beyond the buffer ends
the request with BAD_LENGTH and no value (R116), is the model's reading (log 25). -/
def Obligations.EncodeAndStageAnswer : Prop :=
  ∀ (s : State), s.tainted = false →
    let ended := fun (r : Request) (x : Res) (w : Word) (ws : List RegWrite) =>
      step s = .next { s with
        req := r
        q := []
        res := x
        ph := .done
        trace := []
        host := { s.hostAfter with outWord := w, outWrites := ws } }
    (∀ id a w d p n, Submitting (.encode id a w d p n) s →
      (n ≤ bufBytes → ended (.encode id a w d p n) .ok (enc s.cfg id a w d p n) s.host.outWrites) ∧
      (bufBytes < n →
        ended (.encode id a w d p n) (.protocol .badLength) s.host.outWord s.host.outWrites)) ∧
    (∀ p, Submitting (.stage p) s →
      (p.length ≤ bufBytes → ended (.stage p) .ok s.host.outWord (stage s.cfg p)) ∧
      (bufBytes < p.length →
        ended (.stage p) (.protocol .badLength) s.host.outWord s.host.outWrites))

/-- While `tainted` is set the model gives a request no meaning (R27, log 13). -/
def Obligations.TaintedRequestsRefused : Prop :=
  ∀ (r : Request) (s : State), Submitting r s → s.tainted = true → step s = .refused .whileTainted

/-- An erase or program outside the spec's preconditions has no meaning (R65, R66): refused after the
tests of R308 found nothing. -/
def Obligations.OutsidePreconditionRefused : Prop :=
  ∀ (s : State), s.tainted = false →
    (∀ off, Submitting (.eraseSector off) s → s.refusalCause (.eraseSector off) = none →
      (off.toNat % s.sectorSize ≠ 0 ∨ s.flashSize ≤ off.toNat) → step s = .refused .outsidePrecondition) ∧
    (∀ a p, Submitting (.pageProgram a p) s → s.refusalCause (.pageProgram a p) = none →
      s.flashSize < a.toNat + p.length → step s = .refused .outsidePrecondition)

/-- Collecting (R186, R311): in DONE the step hands the result to the host and the phase becomes IDLE;
a call stops at its first result that is not OK (R271); nothing else changes. That the collection is the
very next step, and that every call stops so, is the model's choice (log 6). -/
def Obligations.CollectionReturnsToIdle : Prop :=
  ∀ s : State, s.ph = .done →
    step s = .next { s with
      ph := .idle
      host := { s.host with res := s.res, moves := if s.res = .ok then s.host.moves else [] } }

/-! ### The manufacturer step and the status sequences -/

/-- The manufacturer step (R243): one read of the register at `A_MFR`; exact equality with
`MFR_VENDOR_A` selects the vendor family; the queue becomes the continuation of R245 and its head
begins; a failed read aborts with ERR_TRANSPORT, without `tainted`. -/
def Obligations.ManufacturerStep : Prop :=
  ∀ (s : State) (d : Draw) (ds : List Draw) (es : List Elem), s.cfg.wf = true → s.ph = .mfr →
    s.q = .mfr :: es → s.req = .quadEnable ∨ s.req = .protectDisable → Answered s d ds →
    (d.ok = false → ∃ t, step s = .next t ∧ t.res = .transport ∧ t.ph = .done ∧ t.q = [] ∧
      t.tainted = s.tainted ∧ t.trace = s.trace ++ [.rFail s.cfg.aMfr]) ∧
    (d.ok = true → ∃ t, step s = .next t ∧ t.trace = s.trace ++ [.r s.cfg.aMfr d.value] ∧
      t.ph = .buf ∧ t.k = 0 ∧ t.dev = s.dev ∧
      (byteAt d.value s.cfg.mfrLsb = s.cfg.mfrVendorA →
        (s.req = .quadEnable → t.q = [.ins (.wrsr2 0x02#8)]) ∧
        (s.req = .protectDisable →
          t.q = [.ins (.wrsr2 0x02#8), .ins .wren, .ins (.wrsr1 0x00#8)])) ∧
      (byteAt d.value s.cfg.mfrLsb ≠ s.cfg.mfrVendorA → t.q = [.ins (.wrsr1w 0x00#8 0x02#8)]))

/-- Every status write has one write-enable of its own right before it, but for the manufacturer read,
and every write-enable of a status sequence is followed by a status write; two write-enables in the
vendor family's `protectDisable`, one otherwise (R252). The sequence is the model's own: the expansion of
the request without its manufacturer step, then the continuation of the bucket. -/
def Obligations.OneWriteEnablePerStatusWrite : Prop :=
  ∀ (c : Cfg) (r : Request) (b : Bucket), r = .quadEnable ∨ r = .protectDisable →
    let es := (expansion c r).filter (fun e => decide (e ≠ .mfr)) ++ continuation r b
    expansion c r = [.ins .wren, .mfr] ∧
    (∀ k, (es[k]? = some (.ins .wren) →
        ∃ i, es[k + 1]? = some (.ins i) ∧ i.mnemonic ∈ [.WRSR1, .WRSR2, .WRSR1W]) ∧
      (∀ i, es[k]? = some (.ins i) → i ≠ .wren →
        i.mnemonic ∈ [.WRSR1, .WRSR2, .WRSR1W] ∧ 0 < k ∧ es[k - 1]? = some (.ins .wren))) ∧
    es.count (.ins .wren) = if r = .protectDisable ∧ b = .vendorA then 2 else 1

/-! ### The poller and the driver as functions -/

/-- `wait(pk, T)` as a function of the answers (R163): with `j` the least index of an answer that is
not ok or shows the bit clear, the reads up to it and that answer's result; otherwise `T` reads and
ERR_BUSY. Every read is of the one register the signal names. -/
def Obligations.WaitReadsToTheFirstHit : Prop :=
  ∀ (c : Cfg) (pk : Signal) (n : Nat) (ans : List Draw), n ≤ ans.length →
    let reads := fun l : List Draw => l.map (fun d => Txn.r ((pollReg pk).address c) d.value)
    (∀ j (h : j < ans.length), j < n → (ans[j].ok = false ∨ pending c pk ans[j].value = false) →
      (∀ l (hl : l < ans.length), l < j → ans[l].ok = true ∧ pending c pk ans[l].value = true) →
      waitRun c pk n ans = some (if ans[j].ok then
        ⟨reads (ans.take (j + 1)), .ok, ans.drop (j + 1)⟩
      else ⟨reads (ans.take j) ++ [.rFail ((pollReg pk).address c)], .transport, ans.drop (j + 1)⟩)) ∧
    ((∀ l (hl : l < ans.length), l < n → ans[l].ok = true ∧ pending c pk ans[l].value = true) →
      waitRun c pk n ans = some ⟨reads (ans.take n), .busy, ans.drop n⟩)

/-- The step rules compute `runIns` (R187): an instruction begun as the only element of the queue, run
step by step, ends with the trace, the result and the unused answers of the function. -/
def Obligations.StepsComputeRunIns : Prop :=
  ∀ (s : State) (i : Instr) (x : Run), s.cfg.wf = true → i.wf = true → s.q = [] → s.flight = .clear →
    s.env.mode = .oracle → runIns s.cfg (i.ins s.cfg) s.env.tape = some x →
    ∃ n t, Sys2Proof.core.run n (s.start [.ins i]) = .next t ∧ t.ph = .done ∧ t.res = x.res ∧
      t.trace = s.trace ++ x.trace ∧ t.env.tape = x.rest

/-- The step rules compute `runOp` (R187): an accepted request runs to DONE with the trace, the result
and the unused answers of the function over its expansion. -/
def Obligations.StepsComputeRunOp : Prop :=
  ∀ (s : State) (r : Request) (x : Run), Inv s → Submitting r s → s.tainted = false →
    s.refusalCause r = none → precondition s.sectorSize s.flashSize r = true → expansion s.cfg r ≠ [] →
    s.env.mode = .oracle → runOp s.cfg r (expansion s.cfg r) s.env.tape = some x →
    ∃ n t, Sys2Proof.core.run (n + 1) s = .next t ∧ t.ph = .done ∧ t.res = x.res ∧
      t.trace = x.trace ∧ t.env.tape = x.rest

/-! ### Invariants and whole-machine rules -/

/-- The invariant holds after reset, at every well-formed configuration and at the one the host's
interface names (log 3 and log 4 name the values R47 leaves open, log 1 the configuration). -/
def Obligations.InvariantAtReset : Prop :=
  (∀ c : Cfg, c.wf = true → Inv (State.resetWith c)) ∧ Inv State.reset

/-- Every step keeps the invariant: the phase fits the head of the queue (R49 (a), (b), (c)), payloads
fit the buffer (R49 (d)), at most one command is in flight (R49 (e), R352), the sector array is that of
the geometry, the flash array keeps its canonical form, the configuration stays well formed. -/
def Obligations.StepKeepsInvariant : Prop := ∀ s t : State, Inv s → step s = .next t → Inv t

/-- Liveness (R371): in every phase but IDLE and DONE the engine has a step, whatever the oracle
answers, and the operation reaches DONE within the bound of R371. -/
def Obligations.OperationsEndWithinBound : Prop :=
  ∀ s : State, Inv s → engineTurn s →
    (∃ t, step s = .next t) ∧
    ∃ n ≤ stepsBound s, ∃ t, Sys2Proof.core.run n s = .next t ∧ t.ph = .done

/-- `tainted` is cleared by no step (R27), `probed` is never left (R314), the configuration never
changes, and `probed` is entered only by the last move of a probe. -/
def Obligations.TaintedAndProbedStay : Prop :=
  ∀ s t : State, step s = .next t →
    t.cfg = s.cfg ∧ (s.tainted = true → t.tainted = true) ∧ (s.probed = true → t.probed = true) ∧
    (s.probed = false → t.probed = true → s.ph = .idle ∧ s.host.moves.head? = some .setProbed)

/-- The `protected` flag of a sector is written by nothing but the allocation of the sector array
(R29, R79). -/
def Obligations.ProtectedFlagNeverWritten : Prop :=
  ∀ s t : State, step s = .next t → ¬ (s.ph = .idle ∧ s.host.moves.head? = some .readId) →
    t.sectors.map Sector.prot = s.sectors.map Sector.prot ∧ t.sectorSize = s.sectorSize ∧
      t.flashSize = s.flashSize

/-- Under the free oracle the device changes in phase WAIT only, the model's choice (log 9, and log 15
for a failed ISSUE); and an operation that reaches DONE without the mark `tainted` has left no command in
flight (R43, R49 (e), R72). -/
def Obligations.DeviceChangesOnlyWhileWaiting : Prop :=
  ∀ s t : State, s.env.mode = .oracle → step s = .next t →
    (t.dev ≠ s.dev → s.ph = .wait) ∧ (Inv s → t.ph = .done → t.tainted = false → t.flight = .clear)

/-- The state after reset (R47): the values the rule gives, at every configuration (R9); the host's
interface starts at the reference configuration (log 1). -/
def Obligations.ResetValues : Prop :=
  (∀ c : Cfg, let s := State.resetWith c
    s.cfg = c ∧ s.ph = .idle ∧ s.q = [] ∧ s.k = 0 ∧ s.cnt = 0 ∧ s.tainted = false ∧ s.probed = false ∧
    s.sectors = [] ∧ s.flight = .clear) ∧
  State.reset = State.resetWith cfgRef

/-- Memories in canonical form over one base that read alike are equal (the form is the model's, log 4). -/
def Obligations.CanonicalMemoriesAreEqual : Prop :=
  ∀ (c : Cfg) (m m' : Memory), m.wf c = true → m'.wf c = true → m.base = m'.base →
    (∀ a, m.read c a = m'.read c a) → m = m'

/-! ### The reference environment -/

/-- A poll read in the reference environment (R80, log 19), of the command register for ACT and of the
status register for the idle bit: it counts `busy` down; before the last count both bits and the device
are as they were; at the last the effect is applied and both bits read 0. -/
def Obligations.ReferenceReadCountsDown : Prop :=
  ∀ (s : State) (i : Instr) (pk : Signal), s.env.mode = .reference → s.flight = .running i →
    s.cfg.actBit < 32 → s.cfg.idleBit < 32 →
    pending s.cfg pk (s.regs.get (pollReg pk)) = true →
    (1 < s.env.busy → ∃ v t, s.readReg (pollReg pk) = (true, v, t) ∧ pending s.cfg pk v = true ∧
      t.env.busy = s.env.busy - 1 ∧ t.dev = s.dev ∧ t.flight = s.flight ∧ t.regs = s.regs) ∧
    (s.env.busy = 1 → ∃ v t, s.readReg (pollReg pk) = (true, v, t) ∧ pending s.cfg pk v = false ∧
      t.env.busy = 0 ∧ t.flight = .clear ∧
      t.dev = s.dev.apply s.cfg .reference s.env.draws i ∧
      t.regs.cmd.getLsbD s.cfg.actBit = false ∧ t.regs.status.getLsbD s.cfg.idleBit = false)

/-- The effects of the reference environment (R80): without `wel` none but the write-enable's; with it the
erased sector is the one that contains `a`, a program is the bitwise and, a status write replaces the
register or both; each clears `wel`. A device whose registers follow no known layout is no case of R80. -/
def Obligations.ReferenceEffects : Prop :=
  ∀ (c : Cfg) (n : Nat) (d : Device),
    d.apply c .reference n .wren = { d with wel := true } ∧
    (∀ i, i ≠ .wren → d.wel = false → d.apply c .reference n i = d) ∧
    (d.wel = true →
      (∀ a, 0 < c.sectorSize → a.toNat < c.flashSize →
        let e := d.apply c .reference n (.se a)
        e.wel = false ∧ e.sr1 = d.sr1 ∧ e.sr2 = d.sr2 ∧
        ∀ x, e.flash.read c x = if x / c.sectorSize = a.toNat / c.sectorSize then c.erasedByte
          else d.flash.read c x) ∧
      (let e := d.apply c .reference n .ce;
        e.wel = false ∧ e.sr1 = d.sr1 ∧ e.sr2 = d.sr2 ∧ ∀ x, e.flash.read c x = c.erasedByte) ∧
      (∀ (a : Word) (p : List Byte), a.toNat + p.length ≤ c.flashSize →
        let e := d.apply c .reference n (.pp a p)
        e.wel = false ∧ e.sr1 = d.sr1 ∧ e.sr2 = d.sr2 ∧
        ∀ x, e.flash.read c x = if a.toNat ≤ x ∧ x < a.toNat + p.length then
          d.flash.read c x &&& p[x - a.toNat]?.getD 0#8 else d.flash.read c x) ∧
      (∀ b, d.apply c .reference n (.wrsr1 b) = { d with sr1 := b, wel := false }) ∧
      (∀ b, d.apply c .reference n (.wrsr2 b) = { d with sr2 := b, wel := false }) ∧
      (∀ b0 b1, d.apply c .reference n (.wrsr1w b0 b1) = { d with sr1 := b0, sr2 := b1, wel := false }))

/-- Phase ISSUE in the reference environment (R80): the controller starts the instruction it decodes
(the instruction itself, log 8 for no bytes), both completion bits read 1, `busy` is at least 1, and
nothing of the device has changed yet. -/
def Obligations.ReferenceIssueStartsTheCommand : Prop :=
  ∀ (i : Instr) (s : State), s.cfg.wf = true → i.wf = true → s.env.mode = .reference → s.ph = .issue →
    s.flight = .clear → ((i.ins s.cfg).hasAddr = true → s.regs.addr = i.address) →
    (∀ k < divUp i.payload.length 4, s.regs.buf.toList[k]? = some (stageWord i.payload k)) →
    ∃ t, exec i s = .next t ∧ t.ph = .wait ∧ t.cnt = 0 ∧
      t.flight = .running (asSeen s.regs.buf.toList i) ∧ 1 ≤ t.env.busy ∧ t.dev = s.dev ∧
      t.regs.cmd = encIns s.cfg (i.ins s.cfg) ∧ pending s.cfg .act t.regs.cmd = true ∧
      pending s.cfg .idle t.regs.status = true

/-! ### The host -/

/-- Envelope properties (R275). -/
def Obligations.EnvelopeCoversTheWrite : Prop :=
  ∀ pageSize offset count : Nat, 0 < pageSize → 0 < count →
    firstPage pageSize offset * pageSize ≤ offset ∧
    offset + count ≤ lastPage pageSize offset count * pageSize ∧
    envStart pageSize offset % pageSize = 0 ∧ envEnd pageSize offset count % pageSize = 0 ∧
    offset - envStart pageSize offset < pageSize ∧
    envEnd pageSize offset count - (offset + count) < pageSize ∧
    pageSize ≤ envEnd pageSize offset count - envStart pageSize offset

/-- Re-probing a probed bank is a no-op that returns success (R286): no transaction, no sequence, the
same geometry, and `tainted` is as it was. -/
def Obligations.ReprobeIsANoOp : Prop :=
  ∀ (s : State) (cs : List Call), s.ph = .idle → s.host.moves = [] → s.host.inbox = .probe :: cs →
    s.probed = true →
      step s = .next { s with host := { s.host with inbox := cs, res := .ok, moves := [] } }

/-- Probe's moves in the order of R285, begun by `probe` and `autoProbe` on an unprobed bank; `autoProbe`
on a probed one does nothing (R287). The cache goes off and on with a write of the cache-control register,
the clock is one write of the config register (log 20), `probed` is set last; after a failed write the
call ends with a transport failure (log 34), the register is a free value and so is whether the read
cache is on (log 43). -/
def Obligations.ProbeSequence : Prop :=
  ∀ (s : State), s.ph = .idle →
    (∀ c cs, s.host.moves = [] → s.host.inbox = c :: cs → c = .probe ∨ c = .autoProbe →
      s.probed = false → step s = .next { s with
        trace := []
        host := { s.host with
          inbox := cs
          scratch := []
          moves := [.readId, .cacheOff, .clockConfig, .submit .quadEnable, .submit .protectDisable,
            .cacheOn, .setProbed] } }) ∧
    (∀ cs, s.host.moves = [] → s.host.inbox = .autoProbe :: cs → s.probed = true →
      step s = .next { s with host := { s.host with inbox := cs, res := .ok, moves := [] } }) ∧
    (∀ m ms d ds w on, s.host.moves = m :: ms → s.tainted = false → Answered s d ds →
      (m = .cacheOff ∧ w = Config.cacheOffWord ∧ on = false ∨
        m = .cacheOn ∧ w = Config.cacheOnWord ∧ on = true) →
      (d.ok = true → step s = .next { s with
        regs := { s.regs with cache := w }
        cacheOn := on
        env := s.env.next ds
        trace := s.trace ++ [.w s.cfg.aCache w]
        host := { s.host with moves := ms } }) ∧
      (d.ok = false → step s = .next { s with
        regs := { s.regs with cache := Config.freeWord s.env.draws }
        cacheOn := Config.freeCacheOn s.env.draws
        env := s.env.next ds
        trace := s.trace ++ [.wFail s.cfg.aCache w]
        host := { s.host with res := .transport, moves := [] } })) ∧
    (∀ ms d ds, s.host.moves = .clockConfig :: ms → s.tainted = false → Answered s d ds →
      (d.ok = true → step s = .next { s with
        regs := { s.regs with cfg := Config.clockWord }
        env := s.env.next ds
        trace := s.trace ++ [.w s.cfg.aCfg Config.clockWord]
        host := { s.host with moves := ms } }) ∧
      (d.ok = false → step s = .next { s with
        regs := { s.regs with cfg := Config.freeWord s.env.draws }
        env := s.env.next ds
        trace := s.trace ++ [.wFail s.cfg.aCfg Config.clockWord]
        host := { s.host with res := .transport, moves := [] } })) ∧
    (s.host.moves = [.setProbed] →
      step s = .next { s with probed := true, host := { s.host with res := .ok, moves := [] } })

/-- The version read of probe (R285 (1) to (3)): a matched record sets the geometry, `flashSize /
sectorSize` sectors with both flags unknown; no match ends the call with the not-probed failure and
leaves the geometry; a failed read ends it with a transport failure (log 34) and leaves it too. -/
def Obligations.ProbeMatchesTheVersion : Prop :=
  ∀ (s : State) (d : Draw) (ds : List Draw) (ms : List Move), s.ph = .idle → s.tainted = false →
    s.host.moves = .readId :: ms → Answered s d ds →
    let ended := fun (t : State) (x : Res) (y : Txn) =>
      t.host.res = x ∧ t.host.moves = [] ∧ t.sectors = s.sectors ∧ t.sectorSize = s.sectorSize ∧
        t.flashSize = s.flashSize ∧ t.probed = s.probed ∧ t.dev = s.dev ∧ t.trace = s.trace ++ [y]
    (d.ok = true →
      (∀ spec, s.cfg.deviceTable.find? (fun e => decide (e.versionId = d.value)) = some spec →
        ∃ t, step s = .next t ∧ t.sectorSize = spec.sectorKB * 1024 ∧
          t.flashSize = spec.flashKB * 1024 ∧ t.sectors.length = t.flashSize / t.sectorSize ∧
          (∀ n, n < t.sectors.length →
            erasedFlag t n = some .unknown ∧ protFlag t n = some .unknown) ∧
          t.host.moves = ms ∧ t.trace = s.trace ++ [.r s.cfg.aId d.value]) ∧
      (s.cfg.deviceTable.find? (fun e => decide (e.versionId = d.value)) = none →
        ∃ t, step s = .next t ∧ ended t (.protocol .notProbed) (.r s.cfg.aId d.value))) ∧
    (d.ok = false → ∃ t, step s = .next t ∧ ended t .transport (.rFail s.cfg.aId))

/-- `erase(first, last)` (R271): before a probe it ends with NOT_PROBED; otherwise its moves are the
sector erases of the sectors from first to last in ascending order. The model's choice: a sector that does
not exist is refused when its turn comes (R65, log 45), and so is an offset no 32-bit operand holds (log
28). -/
def Obligations.EraseCallIsAscending : Prop :=
  (∀ (s : State) (f l : Nat) (cs : List Call), s.ph = .idle → s.host.moves = [] →
    s.host.inbox = .erase f l :: cs →
    (s.probed = false → ∃ t, step s = .next t ∧ t.host.res = .protocol .notProbed ∧
      t.host.moves = [] ∧ t.regs = s.regs ∧ t.dev = s.dev) ∧
    (s.probed = true → ∃ t, step s = .next t ∧ t.host.moves.length = l + 1 - f ∧
      ∀ j, f + j ≤ l → t.host.moves[j]? = some (if (f + j) * s.sectorSize < 2 ^ 32 then
        .submit (.eraseSector (BitVec.ofNat 32 ((f + j) * s.sectorSize))) else .unaddressable))) ∧
  ∀ (s : State) (ms : List Move), s.ph = .idle → s.tainted = false →
    (∀ off : Word, s.host.moves = .submit (.eraseSector off) :: ms →
      s.refusalCause (.eraseSector off) = none → s.flashSize ≤ off.toNat →
      step s = .refused .outsidePrecondition) ∧
    (s.host.moves = .unaddressable :: ms → step s = .refused .unaddressable)

/-- `write(buffer, offset, count)` up to its erase step (R273, R274, R276): before a probe NOT_PROBED;
`count = 0` and a range beyond the flash are refused; otherwise the scratch buffer holds the caller's
bytes in the middle of the envelope and the device's old bytes around them, the device is unchanged, and
next come the sector erases of the envelope in ascending order or the one chip erase (R277; an offset no
32-bit operand holds, log 28), then the transfer (reference environment). A `readBlock` that answers not ok
ends the write before anything is erased (R276, log 37). A buffer that does not hold `count` bytes stands
for `count` free ones (log 44). -/
def Obligations.FringesArePreserved : Prop :=
  (∀ (s : State) (start len : Nat) (ms : List Move) (d : Draw) (ds : List Draw), s.ph = .idle →
    s.tainted = false → s.flight = .clear → s.host.moves = .fringe start len :: ms →
    start + len ≤ s.cfg.flashSize → Answered s d ds → d.ok = false →
    step s = .next { s with
      env := s.env.next ds
      host := { s.host with res := .transport, moves := [] } }) ∧
  ∀ (s : State) (b : List Byte) (off n : Nat) (cs : List Call), s.ph = .idle → s.host.moves = [] →
    s.host.inbox = .write b off n :: cs →
    (s.probed = false → ∃ t, step s = .next t ∧ t.host.res = .protocol .notProbed ∧
      t.host.moves = [] ∧ t.regs = s.regs ∧ t.dev = s.dev) ∧
    (s.probed = true → n = 0 ∨ s.flashSize < off + n → step s = .refused .hostPrecondition) ∧
    (s.probed = true → 0 < n → off + n ≤ s.flashSize → b.length ≠ n → step s = .next { s with
      trace := []
      env := { s.env with draws := s.env.draws + 1 }
      host := { s.host with
        inbox := cs
        scratch := []
        moves := writeMoves s.cfg.erasePolicy s.sectorSize
          ((List.range n).map (Config.freeCallerByte s.env.draws)) off n } }) ∧
    (s.probed = true → 0 < n → off + n ≤ s.flashSize → b.length = n → 0 < s.sectorSize →
      envEnd s.sectorSize off n ≤ s.cfg.flashSize → s.env.mode = .reference → s.tainted = false →
      s.flight = .clear → ∃ m t, Sys2Proof.core.run m s = .next t ∧ t.ph = .idle ∧ t.dev = s.dev ∧
        t.regs = s.regs ∧
        t.host.moves = (match s.cfg.erasePolicy with
          | .coveredSectors => (List.range' (off / s.sectorSize)
              (divUp (off + n) s.sectorSize - off / s.sectorSize)).map
              (fun p => if p * s.sectorSize < 2 ^ 32 then
                .submit (.eraseSector (BitVec.ofNat 32 (p * s.sectorSize))) else .unaddressable)
          | .wholeChip => [.submit .eraseChip]) ++ [.transfer (envStart s.sectorSize off)] ∧
        t.host.scratch.length = envEnd s.sectorSize off n - envStart s.sectorSize off ∧
        ∀ x, envStart s.sectorSize off ≤ x → x < envEnd s.sectorSize off n →
          t.host.scratch[x - envStart s.sectorSize off]? = some (if off ≤ x ∧ x < off + n then
            b[x - off]?.getD 0#8 else s.dev.flash.read s.cfg x))

/-- The stubs and `getInfo` perform no hardware access and change no flag (R287); what they return is
not in the source, a free value (log 21). `massErase` is `eraseChip` (R272). -/
def Obligations.StubsTouchNothing : Prop :=
  ∀ (s : State) (c : Call) (cs : List Call), s.ph = .idle → s.host.moves = [] → s.host.inbox = c :: cs →
    (c = .protectCheck ∨ c = .getInfo ∨ (∃ b f l, c = .protect b f l) →
      ∃ t, step s = .next t ∧ t.ph = .idle ∧ t.regs = s.regs ∧ t.dev = s.dev ∧ t.sectors = s.sectors ∧
        t.trace = s.trace ∧ t.host.moves = [] ∧ t.host.inbox = cs ∧
        t.host.res = Config.freeRes s.env.draws) ∧
    (c = .massErase → step s = accept .eraseChip { s with host := { s.host with inbox := cs } })

/-- The slow path (R279): the page programs cover the scratch buffer, in ascending chunks of `PROG_CHUNK`
bytes, the last one shorter, each at its place in the envelope. The transfer step (R278) puts them next,
bulk first only where its allocation fails (R280); where it succeeds the bulk path is refused by name
(log 22). An address no 32-bit operand holds is no request (log 28). -/
def Obligations.SlowPathCoversTheEnvelope : Prop :=
  (∀ (chunk start : Nat) (buffer : List Byte), 0 < chunk →
    (programMoves chunk start buffer).length = divUp buffer.length chunk ∧
    (∀ j, j < divUp buffer.length chunk → ∃ p, (programMoves chunk start buffer)[j]? =
        some (if start + j * chunk < 2 ^ 32 then
          .submit (.pageProgram (BitVec.ofNat 32 (start + j * chunk)) p) else .unaddressable) ∧
      p.length = min chunk (buffer.length - j * chunk) ∧ p ≠ [] ∧
      ∀ i, i < p.length → p[i]? = buffer[j * chunk + i]?) ∧
    (∀ x, x < buffer.length → x / chunk < divUp buffer.length chunk)) ∧
  ∀ (s : State) (start : Nat) (ms : List Move), s.ph = .idle → s.tainted = false →
    s.host.moves = .transfer start :: ms →
    let next := { s.host with moves := programMoves s.cfg.progChunk start s.host.scratch ++ ms }
    (s.cfg.bulkFirst = false → step s = .next { s with host := next }) ∧
    (∀ d ds, s.cfg.bulkFirst = true → s.env.tape = d :: ds →
      (d.ok = false → step s = .next { s with env := s.env.next ds, host := next }) ∧
      (d.ok = true → step s = .refused .bulkPath))

/-! ### Whole operations -/

/-- `eraseSector(offset)` from acceptance to DONE (R202, R206), each wait clear on its first poll and
every answer ok: five transactions in the order of R204; the sector is erased in the device and marked
YES, every other byte and every other flag are as before. -/
def Obligations.EraseSectorEndToEnd : Prop :=
  ∀ (s : State) (off : Word) (d1 d2 d3 d4 d5 : Draw) (ds : List Draw),
    Inv s → Submitting (.eraseSector off) s → s.tainted = false → s.probed = true →
    s.sectorSize = s.cfg.sectorSize → s.flashSize = s.cfg.flashSize →
    off.toNat % s.sectorSize = 0 → off.toNat < s.flashSize →
    protFlag s (off.toNat / s.sectorSize) ≠ some .yes → s.dev.sr1 = 0#8 →
    0 < s.cfg.tWren → 0 < s.cfg.tSe →
    s.env.mode = .oracle → s.env.tape = d1 :: d2 :: d3 :: d4 :: d5 :: ds →
    d1.ok = true → d2.ok = true → d3.ok = true → d4.ok = true → d5.ok = true →
    pending s.cfg .act d2.value = false → pending s.cfg .act d5.value = false →
    ∃ t, Sys2Proof.core.run 6 s = .next t ∧ t.ph = .done ∧ t.res = .ok ∧ t.tainted = false ∧
      t.trace = [.w s.cfg.aCmd (encIns s.cfg (Instr.wren.ins s.cfg)), .r s.cfg.aCmd d2.value,
        .w s.cfg.aAddr off, .w s.cfg.aCmd (encIns s.cfg ((Instr.se off).ins s.cfg)),
        .r s.cfg.aCmd d5.value] ∧
      erasedFlag t (off.toNat / s.sectorSize) = some .yes ∧
      (∀ n, n ≠ off.toNat / s.sectorSize → erasedFlag t n = erasedFlag s n) ∧
      ∀ x, t.dev.flash.read s.cfg x =
        if off.toNat ≤ x ∧ x < off.toNat + s.cfg.sectorSize then s.cfg.erasedByte
        else s.dev.flash.read s.cfg x
end

