-- ==== Sys2Proof/Laws/Memory.lean ====
section
/-! SUPPORT. The flash array: reading after each operation, and that every operation keeps the
canonical form. -/
namespace Sys2Proof.Machine

/-! ### Lists of cells -/

/-- The list's offsets strictly rise. -/
abbrev Rising (l : List Host.Cell) : Prop := l.Pairwise (fun x y => x.1 < y.1)

theorem lookup_cons_cell (a b : Nat) (v : Byte) (l : List Host.Cell) :
    List.lookup a ((b, v) :: l) = if a = b then some v else l.lookup a := by
  rw [List.lookup_cons]
  by_cases h : a = b
  · subst h; simp
  · have : (a == b) = false := by simpa using h
    simp [this, h]

/-- Filtering keeps the cells of the offsets that pass. -/
theorem lookup_filter (p : Nat → Bool) (a : Nat) (l : List Host.Cell) :
    (l.filter (fun x => p x.1)).lookup a = if p a then l.lookup a else none := by
  induction l with
  | nil => simp
  | cons x l ih =>
    obtain ⟨b, w⟩ := x
    by_cases hb : p b
    · rw [List.filter_cons_of_pos (by simpa using hb), lookup_cons_cell, lookup_cons_cell, ih]
      by_cases h : a = b
      · subst h; simp [hb]
      · simp [h]
    · rw [List.filter_cons_of_neg (by simpa using hb), lookup_cons_cell, ih]
      by_cases h : a = b
      · subst h; simp [hb]
      · simp [h]

theorem lookup_append_cells (a : Nat) (l l' : List Host.Cell) :
    (l ++ l').lookup a = (l.lookup a).or (l'.lookup a) := by
  induction l with
  | nil => simp
  | cons x l ih =>
    obtain ⟨b, w⟩ := x
    rw [List.cons_append, lookup_cons_cell, lookup_cons_cell, ih]
    by_cases h : a = b <;> simp [h]

theorem lookup_insertCell (a b : Nat) (v : Byte) (l : List Host.Cell) :
    (insertCell a v l).lookup b = if b = a then some v else l.lookup b := by
  induction l with
  | nil => simp [insertCell, lookup_cons_cell]
  | cons x l ih =>
    obtain ⟨c, w⟩ := x
    simp only [insertCell]
    split
    · rw [lookup_cons_cell]
    · split
      · rename_i h; subst h
        rw [lookup_cons_cell, lookup_cons_cell]
        by_cases h : b = a <;> simp [h]
      · rw [lookup_cons_cell, lookup_cons_cell, ih]
        by_cases h : b = c
        · have : ¬ (b = a) := by omega
          simp [h]; omega
        · simp [h]

theorem mem_insertCell {a : Nat} {v : Byte} {l : List Host.Cell} {x : Host.Cell}
    (h : x ∈ insertCell a v l) : x = (a, v) ∨ x ∈ l := by
  induction l with
  | nil => simpa [insertCell] using h
  | cons y l ih =>
    obtain ⟨c, w⟩ := y
    simp only [insertCell] at h
    split at h
    · simpa using h
    · split at h
      · rcases List.mem_cons.mp h with h | h
        · exact .inl h
        · exact .inr (List.mem_cons_of_mem _ h)
      · rcases List.mem_cons.mp h with h | h
        · exact .inr (by simp [h])
        · rcases ih h with h | h
          · exact .inl h
          · exact .inr (List.mem_cons_of_mem _ h)

theorem rising_insertCell (a : Nat) (v : Byte) {l : List Host.Cell} (h : Rising l) :
    Rising (insertCell a v l) := by
  induction l with
  | nil => simp [insertCell]
  | cons y l ih =>
    obtain ⟨c, w⟩ := y
    obtain ⟨h1, h2⟩ := List.pairwise_cons.mp h
    simp only [insertCell]
    split
    · rename_i hac
      refine List.pairwise_cons.mpr ⟨fun z hz => ?_, h⟩
      rcases List.mem_cons.mp hz with rfl | hz
      · exact hac
      · exact Nat.lt_trans hac (h1 z hz)
    · split
      · rename_i hac; subst hac
        exact List.pairwise_cons.mpr ⟨h1, h2⟩
      · refine List.pairwise_cons.mpr ⟨fun z hz => ?_, ih h2⟩
        rcases mem_insertCell hz with rfl | hz
        · simp only; omega
        · exact h1 z hz

/-! ### Reading -/

theorem Memory.write_base (c : Cfg) (a : Nat) (v : Byte) (m : Memory) :
    (m.write c a v).base = m.base := rfl

@[simp] theorem Memory.unlisted_write (c : Cfg) (a b : Nat) (v : Byte) (m : Memory) :
    (m.write c a v).unlisted c b = m.unlisted c b := rfl

@[simp] theorem Memory.unlisted_eraseRange (c : Cfg) (lo n b : Nat) (m : Memory) :
    (m.eraseRange c lo n).unlisted c b = m.unlisted c b := rfl

/-- Reading after a write: the value at its offset, every other byte as before. -/
theorem Memory.read_write (c : Cfg) (a b : Nat) (v : Byte) (m : Memory) :
    (m.write c a v).read c b = if b = a then v else m.read c b := by
  simp only [Memory.read, Memory.unlisted_write]
  simp only [Memory.write]
  split
  · rename_i hv
    have := lookup_filter (fun x => decide (x ≠ a)) b m.cells
    rw [this]
    by_cases h : b = a
    · subst h; simp [hv]
    · simp [h]
  · rw [lookup_insertCell]
    by_cases h : b = a <;> simp [h]

/-- Reading after programming: the bitwise and inside the payload's range, every other byte as before
(R80, R220). -/
theorem Memory.read_program (c : Cfg) (p : List Byte) (a b : Nat) (m : Memory) :
    (m.program c a p).read c b =
      if a ≤ b ∧ b < a + p.length then m.read c b &&& p[b - a]?.getD 0#8 else m.read c b := by
  induction p generalizing a m with
  | nil => simp only [Memory.program, List.length_nil]; rw [if_neg (by omega)]
  | cons x p ih =>
    rw [Memory.program, ih, Memory.read_write]
    simp only [List.length_cons]
    by_cases h1 : b = a
    · subst h1
      rw [if_neg (by omega), if_pos rfl, if_pos (by omega)]
      simp
    · by_cases h2 : a + 1 ≤ b ∧ b < a + 1 + p.length
      · rw [if_pos h2, if_neg h1, if_pos (by omega)]
        have : b - a = (b - (a + 1)) + 1 := by omega
        rw [this, List.getElem?_cons_succ]
      · rw [if_neg h2, if_neg h1, if_neg (by omega)]

theorem lookup_erased (c : Cfg) (q : Nat → Bool) (lo n b : Nat) :
    (((List.range' lo n).map (fun a => (a, c.erasedByte))).filter (fun x => q x.1)).lookup b =
      if lo ≤ b ∧ b < lo + n ∧ q b then some c.erasedByte else none := by
  rw [lookup_filter q]
  have : ((List.range' lo n).map (fun a => (a, c.erasedByte))).lookup b =
      if lo ≤ b ∧ b < lo + n then some c.erasedByte else none := by
    induction n generalizing lo with
    | zero => simp only [List.range'_zero, List.map_nil, List.lookup_nil]; rw [if_neg (by omega)]
    | succ n ih =>
      rw [List.range'_succ, List.map_cons, lookup_cons_cell, ih]
      by_cases h : b = lo
      · subst h; rw [if_pos rfl, if_pos (by omega)]
      · rw [if_neg h]
        by_cases h2 : lo + 1 ≤ b ∧ b < lo + 1 + n
        · rw [if_pos h2, if_pos (by omega)]
        · rw [if_neg h2, if_neg (by omega)]
  rw [this]
  by_cases hq : q b <;> simp [hq]

theorem erasedCells_eq (c : Cfg) (lo n : Nat) (m : Memory) :
    erasedCells c lo n m =
      ((List.range' lo n).map (fun a => (a, c.erasedByte))).filter
        (fun x => decide (c.erasedByte ≠ m.unlisted c x.1)) := by
  apply List.filter_congr
  intro x hx
  obtain ⟨a, -, rfl⟩ := List.mem_map.mp hx
  rfl

/-- Reading after an erase: the erased-state value in the range, every other byte as before (R80, R200). -/
theorem Memory.read_eraseRange (c : Cfg) (lo n b : Nat) (m : Memory) :
    (m.eraseRange c lo n).read c b =
      if lo ≤ b ∧ b < lo + n then c.erasedByte else m.read c b := by
  simp only [Memory.read, Memory.unlisted_eraseRange]
  simp only [Memory.eraseRange, lookup_append_cells, erasedCells_eq]
  have e1 := lookup_filter (fun x => decide (x < lo)) b m.cells
  have e2 := lookup_filter (fun x => decide (lo + n ≤ x)) b m.cells
  have e3 := lookup_erased c (fun x => decide (c.erasedByte ≠ m.unlisted c x)) lo n b
  rw [e1, e2, e3]
  by_cases h1 : b < lo
  · have n1 : ¬ (lo ≤ b ∧ b < lo + n) := by omega
    have n2 : ¬ (lo + n ≤ b) := by omega
    have n3 : ¬ (lo ≤ b) := by omega
    simp [h1, n2, n3]
  · by_cases h2 : b < lo + n
    · have n1 : lo ≤ b := by omega
      have n2 : ¬ (lo + n ≤ b) := by omega
      by_cases hq : c.erasedByte = m.unlisted c b
      · simp [h1, h2, n1, n2, ← hq]
      · simp [h1, h2, n1, n2, hq]
    · have n2 : lo + n ≤ b := by omega
      simp [h1, h2, n2]

@[simp] theorem Memory.read_eraseAll (c : Cfg) (b : Nat) :
    Memory.eraseAll.read c b = c.erasedByte := by
  simp [Memory.eraseAll, Memory.read, Memory.unlisted]

@[simp] theorem Memory.read_lose (c : Cfg) (n b : Nat) :
    (Memory.lose n).read c b = Config.freeByte n b := by
  simp [Memory.lose, Memory.read, Memory.unlisted]

/-! ### The canonical form is kept -/

theorem Memory.wf_iff {c : Cfg} {m : Memory} :
    m.wf c = true ↔ Rising m.cells ∧ ∀ x ∈ m.cells, x.2 ≠ m.unlisted c x.1 := by
  simp [Memory.wf]

theorem Memory.wf_write {c : Cfg} {m : Memory} (a : Nat) (v : Byte) (h : m.wf c = true) :
    (m.write c a v).wf c = true := by
  rw [Memory.wf_iff] at h ⊢
  obtain ⟨h1, h2⟩ := h
  simp only [Memory.unlisted_write]
  simp only [Memory.write]
  split
  · exact ⟨h1.filter _, fun x hx => h2 x (List.mem_of_mem_filter hx)⟩
  · rename_i hv
    refine ⟨rising_insertCell a v h1, fun x hx => ?_⟩
    rcases mem_insertCell hx with rfl | hx
    · exact hv
    · exact h2 x hx

theorem Memory.wf_program {c : Cfg} (p : List Byte) (a : Nat) {m : Memory} (h : m.wf c = true) :
    (m.program c a p).wf c = true := by
  induction p generalizing a m with
  | nil => exact h
  | cons x p ih => exact ih _ (Memory.wf_write a _ h)

theorem mem_erasedCells {c : Cfg} {lo n : Nat} {m : Memory} {x : Host.Cell}
    (h : x ∈ erasedCells c lo n m) : lo ≤ x.1 ∧ x.1 < lo + n ∧ x.2 ≠ m.unlisted c x.1 := by
  obtain ⟨h1, h2⟩ := List.mem_filter.mp h
  obtain ⟨a, ha, rfl⟩ := List.mem_map.mp h1
  obtain ⟨h3, h4⟩ := List.mem_range'_1.mp ha
  exact ⟨h3, h4, of_decide_eq_true h2⟩

theorem rising_erasedCells (c : Cfg) (lo n : Nat) (m : Memory) : Rising (erasedCells c lo n m) := by
  refine List.Pairwise.filter _ (List.Pairwise.map _ (fun a b hab => hab) ?_)
  exact List.pairwise_lt_range'

theorem Memory.wf_eraseRange {c : Cfg} {m : Memory} (lo n : Nat) (h : m.wf c = true) :
    (m.eraseRange c lo n).wf c = true := by
  rw [Memory.wf_iff] at h ⊢
  obtain ⟨h1, h2⟩ := h
  simp only [Memory.unlisted_eraseRange]
  refine ⟨?_, fun x hx => ?_⟩
  · refine List.pairwise_append.mpr ⟨List.pairwise_append.mpr
      ⟨h1.filter _, rising_erasedCells c lo n m, fun x hx y hy => ?_⟩, h1.filter _, fun x hx y hy => ?_⟩
    · have := of_decide_eq_true (List.mem_filter.mp hx).2
      have := (mem_erasedCells hy).1
      omega
    · have hy := of_decide_eq_true (List.mem_filter.mp hy).2
      rcases List.mem_append.mp hx with hx | hx
      · have := of_decide_eq_true (List.mem_filter.mp hx).2
        omega
      · have := (mem_erasedCells hx).2.1
        omega
  · rcases List.mem_append.mp hx with hx | hx
    · rcases List.mem_append.mp hx with hx | hx
      · exact h2 x (List.mem_of_mem_filter hx)
      · exact (mem_erasedCells hx).2.2
    · exact h2 x (List.mem_of_mem_filter hx)

@[simp] theorem Memory.wf_eraseAll (c : Cfg) : Memory.eraseAll.wf c = true := by
  simp [Memory.wf_iff, Memory.eraseAll]

@[simp] theorem Memory.wf_lose (c : Cfg) (n : Nat) : (Memory.lose n).wf c = true := by
  simp [Memory.wf_iff, Memory.lose]

end Sys2Proof.Machine
end

