-- ==== Sys2Proof/Laws/State.lean ====
section
/-! SUPPORT. One lemma per field of State for each update that is a single record update; every later
proof rewrites with these instead of unfolding the update. -/
namespace Sys2Proof.Machine

/-! ### `State.log` -/

@[simp] theorem State.log_cfg (t : Txn) (s : State) : (s.log t).cfg = s.cfg := rfl
@[simp] theorem State.log_ph (t : Txn) (s : State) : (s.log t).ph = s.ph := rfl
@[simp] theorem State.log_q (t : Txn) (s : State) : (s.log t).q = s.q := rfl
@[simp] theorem State.log_k (t : Txn) (s : State) : (s.log t).k = s.k := rfl
@[simp] theorem State.log_cnt (t : Txn) (s : State) : (s.log t).cnt = s.cnt := rfl
@[simp] theorem State.log_res (t : Txn) (s : State) : (s.log t).res = s.res := rfl
@[simp] theorem State.log_req (t : Txn) (s : State) : (s.log t).req = s.req := rfl
@[simp] theorem State.log_tainted (t : Txn) (s : State) : (s.log t).tainted = s.tainted := rfl
@[simp] theorem State.log_probed (t : Txn) (s : State) : (s.log t).probed = s.probed := rfl
@[simp] theorem State.log_sectorSize (t : Txn) (s : State) : (s.log t).sectorSize = s.sectorSize := rfl
@[simp] theorem State.log_flashSize (t : Txn) (s : State) : (s.log t).flashSize = s.flashSize := rfl
@[simp] theorem State.log_sectors (t : Txn) (s : State) : (s.log t).sectors = s.sectors := rfl
@[simp] theorem State.log_regs (t : Txn) (s : State) : (s.log t).regs = s.regs := rfl
@[simp] theorem State.log_flight (t : Txn) (s : State) : (s.log t).flight = s.flight := rfl
@[simp] theorem State.log_issued (t : Txn) (s : State) : (s.log t).issued = s.issued := rfl
@[simp] theorem State.log_cacheOn (t : Txn) (s : State) : (s.log t).cacheOn = s.cacheOn := rfl
@[simp] theorem State.log_dev (t : Txn) (s : State) : (s.log t).dev = s.dev := rfl
@[simp] theorem State.log_env (t : Txn) (s : State) : (s.log t).env = s.env := rfl
@[simp] theorem State.log_host (t : Txn) (s : State) : (s.log t).host = s.host := rfl
@[simp] theorem State.log_trace (t : Txn) (s : State) : (s.log t).trace = s.trace ++ [t] := rfl

/-! ### `State.popAnswer` -/

@[simp] theorem State.popAnswer_cfg (s : State) : (s.popAnswer).cfg = s.cfg := rfl
@[simp] theorem State.popAnswer_ph (s : State) : (s.popAnswer).ph = s.ph := rfl
@[simp] theorem State.popAnswer_q (s : State) : (s.popAnswer).q = s.q := rfl
@[simp] theorem State.popAnswer_k (s : State) : (s.popAnswer).k = s.k := rfl
@[simp] theorem State.popAnswer_cnt (s : State) : (s.popAnswer).cnt = s.cnt := rfl
@[simp] theorem State.popAnswer_res (s : State) : (s.popAnswer).res = s.res := rfl
@[simp] theorem State.popAnswer_req (s : State) : (s.popAnswer).req = s.req := rfl
@[simp] theorem State.popAnswer_tainted (s : State) : (s.popAnswer).tainted = s.tainted := rfl
@[simp] theorem State.popAnswer_probed (s : State) : (s.popAnswer).probed = s.probed := rfl
@[simp] theorem State.popAnswer_sectorSize (s : State) : (s.popAnswer).sectorSize = s.sectorSize := rfl
@[simp] theorem State.popAnswer_flashSize (s : State) : (s.popAnswer).flashSize = s.flashSize := rfl
@[simp] theorem State.popAnswer_sectors (s : State) : (s.popAnswer).sectors = s.sectors := rfl
@[simp] theorem State.popAnswer_regs (s : State) : (s.popAnswer).regs = s.regs := rfl
@[simp] theorem State.popAnswer_flight (s : State) : (s.popAnswer).flight = s.flight := rfl
@[simp] theorem State.popAnswer_issued (s : State) : (s.popAnswer).issued = s.issued := rfl
@[simp] theorem State.popAnswer_cacheOn (s : State) : (s.popAnswer).cacheOn = s.cacheOn := rfl
@[simp] theorem State.popAnswer_dev (s : State) : (s.popAnswer).dev = s.dev := rfl
@[simp] theorem State.popAnswer_env (s : State) : (s.popAnswer).env = { s.env with tape := s.env.tape.tail, draws := s.env.draws + 1 } := rfl
@[simp] theorem State.popAnswer_host (s : State) : (s.popAnswer).host = s.host := rfl
@[simp] theorem State.popAnswer_trace (s : State) : (s.popAnswer).trace = s.trace := rfl

/-! ### `State.putReg` -/

@[simp] theorem State.putReg_cfg (r : Reg) (v : Word) (s : State) : (s.putReg r v).cfg = s.cfg := rfl
@[simp] theorem State.putReg_ph (r : Reg) (v : Word) (s : State) : (s.putReg r v).ph = s.ph := rfl
@[simp] theorem State.putReg_q (r : Reg) (v : Word) (s : State) : (s.putReg r v).q = s.q := rfl
@[simp] theorem State.putReg_k (r : Reg) (v : Word) (s : State) : (s.putReg r v).k = s.k := rfl
@[simp] theorem State.putReg_cnt (r : Reg) (v : Word) (s : State) : (s.putReg r v).cnt = s.cnt := rfl
@[simp] theorem State.putReg_res (r : Reg) (v : Word) (s : State) : (s.putReg r v).res = s.res := rfl
@[simp] theorem State.putReg_req (r : Reg) (v : Word) (s : State) : (s.putReg r v).req = s.req := rfl
@[simp] theorem State.putReg_tainted (r : Reg) (v : Word) (s : State) : (s.putReg r v).tainted = s.tainted := rfl
@[simp] theorem State.putReg_probed (r : Reg) (v : Word) (s : State) : (s.putReg r v).probed = s.probed := rfl
@[simp] theorem State.putReg_sectorSize (r : Reg) (v : Word) (s : State) : (s.putReg r v).sectorSize = s.sectorSize := rfl
@[simp] theorem State.putReg_flashSize (r : Reg) (v : Word) (s : State) : (s.putReg r v).flashSize = s.flashSize := rfl
@[simp] theorem State.putReg_sectors (r : Reg) (v : Word) (s : State) : (s.putReg r v).sectors = s.sectors := rfl
@[simp] theorem State.putReg_regs (r : Reg) (v : Word) (s : State) : (s.putReg r v).regs = s.regs.put v r := rfl
@[simp] theorem State.putReg_flight (r : Reg) (v : Word) (s : State) : (s.putReg r v).flight = s.flight := rfl
@[simp] theorem State.putReg_issued (r : Reg) (v : Word) (s : State) : (s.putReg r v).issued = s.issued := rfl
@[simp] theorem State.putReg_cacheOn (r : Reg) (v : Word) (s : State) : (s.putReg r v).cacheOn = s.cacheOn := rfl
@[simp] theorem State.putReg_dev (r : Reg) (v : Word) (s : State) : (s.putReg r v).dev = s.dev := rfl
@[simp] theorem State.putReg_env (r : Reg) (v : Word) (s : State) : (s.putReg r v).env = s.env := rfl
@[simp] theorem State.putReg_host (r : Reg) (v : Word) (s : State) : (s.putReg r v).host = s.host := rfl
@[simp] theorem State.putReg_trace (r : Reg) (v : Word) (s : State) : (s.putReg r v).trace = s.trace := rfl

/-! ### `State.raise` -/

@[simp] theorem State.raise_cfg (f : Res) (s : State) : (s.raise f).cfg = s.cfg := rfl
@[simp] theorem State.raise_ph (f : Res) (s : State) : (s.raise f).ph = .done := rfl
@[simp] theorem State.raise_q (f : Res) (s : State) : (s.raise f).q = [] := rfl
@[simp] theorem State.raise_k (f : Res) (s : State) : (s.raise f).k = s.k := rfl
@[simp] theorem State.raise_cnt (f : Res) (s : State) : (s.raise f).cnt = s.cnt := rfl
@[simp] theorem State.raise_res (f : Res) (s : State) : (s.raise f).res = f := rfl
@[simp] theorem State.raise_req (f : Res) (s : State) : (s.raise f).req = s.req := rfl
@[simp] theorem State.raise_tainted (f : Res) (s : State) : (s.raise f).tainted = (s.tainted || taints f s.ph) := rfl
@[simp] theorem State.raise_probed (f : Res) (s : State) : (s.raise f).probed = s.probed := rfl
@[simp] theorem State.raise_sectorSize (f : Res) (s : State) : (s.raise f).sectorSize = s.sectorSize := rfl
@[simp] theorem State.raise_flashSize (f : Res) (s : State) : (s.raise f).flashSize = s.flashSize := rfl
@[simp] theorem State.raise_sectors (f : Res) (s : State) : (s.raise f).sectors = s.sectorsAfter f := rfl
@[simp] theorem State.raise_regs (f : Res) (s : State) : (s.raise f).regs = s.regs := rfl
@[simp] theorem State.raise_flight (f : Res) (s : State) : (s.raise f).flight = s.flight := rfl
@[simp] theorem State.raise_issued (f : Res) (s : State) : (s.raise f).issued = s.issued := rfl
@[simp] theorem State.raise_cacheOn (f : Res) (s : State) : (s.raise f).cacheOn = s.cacheOn := rfl
@[simp] theorem State.raise_dev (f : Res) (s : State) : (s.raise f).dev = s.dev := rfl
@[simp] theorem State.raise_env (f : Res) (s : State) : (s.raise f).env = s.env := rfl
@[simp] theorem State.raise_host (f : Res) (s : State) : (s.raise f).host = s.host := rfl
@[simp] theorem State.raise_trace (f : Res) (s : State) : (s.raise f).trace = s.trace := rfl

/-! ### `State.collect` -/

@[simp] theorem State.collect_cfg (s : State) : (s.collect).cfg = s.cfg := rfl
@[simp] theorem State.collect_ph (s : State) : (s.collect).ph = .idle := rfl
@[simp] theorem State.collect_q (s : State) : (s.collect).q = s.q := rfl
@[simp] theorem State.collect_k (s : State) : (s.collect).k = s.k := rfl
@[simp] theorem State.collect_cnt (s : State) : (s.collect).cnt = s.cnt := rfl
@[simp] theorem State.collect_res (s : State) : (s.collect).res = s.res := rfl
@[simp] theorem State.collect_req (s : State) : (s.collect).req = s.req := rfl
@[simp] theorem State.collect_tainted (s : State) : (s.collect).tainted = s.tainted := rfl
@[simp] theorem State.collect_probed (s : State) : (s.collect).probed = s.probed := rfl
@[simp] theorem State.collect_sectorSize (s : State) : (s.collect).sectorSize = s.sectorSize := rfl
@[simp] theorem State.collect_flashSize (s : State) : (s.collect).flashSize = s.flashSize := rfl
@[simp] theorem State.collect_sectors (s : State) : (s.collect).sectors = s.sectors := rfl
@[simp] theorem State.collect_regs (s : State) : (s.collect).regs = s.regs := rfl
@[simp] theorem State.collect_flight (s : State) : (s.collect).flight = s.flight := rfl
@[simp] theorem State.collect_issued (s : State) : (s.collect).issued = s.issued := rfl
@[simp] theorem State.collect_cacheOn (s : State) : (s.collect).cacheOn = s.cacheOn := rfl
@[simp] theorem State.collect_dev (s : State) : (s.collect).dev = s.dev := rfl
@[simp] theorem State.collect_env (s : State) : (s.collect).env = s.env := rfl
@[simp] theorem State.collect_host (s : State) : (s.collect).host = { s.host with res := s.res, moves := if s.res = .ok then s.host.moves else [] } := rfl
@[simp] theorem State.collect_trace (s : State) : (s.collect).trace = s.trace := rfl

/-! ### `State.succeed` -/

@[simp] theorem State.succeed_cfg (s : State) : (s.succeed).cfg = s.cfg := rfl
@[simp] theorem State.succeed_ph (s : State) : (s.succeed).ph = .done := rfl
@[simp] theorem State.succeed_q (s : State) : (s.succeed).q = [] := rfl
@[simp] theorem State.succeed_k (s : State) : (s.succeed).k = s.k := rfl
@[simp] theorem State.succeed_cnt (s : State) : (s.succeed).cnt = s.cnt := rfl
@[simp] theorem State.succeed_res (s : State) : (s.succeed).res = .ok := rfl
@[simp] theorem State.succeed_req (s : State) : (s.succeed).req = s.req := rfl
@[simp] theorem State.succeed_tainted (s : State) : (s.succeed).tainted = s.tainted := rfl
@[simp] theorem State.succeed_probed (s : State) : (s.succeed).probed = s.probed := rfl
@[simp] theorem State.succeed_sectorSize (s : State) : (s.succeed).sectorSize = s.sectorSize := rfl
@[simp] theorem State.succeed_flashSize (s : State) : (s.succeed).flashSize = s.flashSize := rfl
@[simp] theorem State.succeed_sectors (s : State) : (s.succeed).sectors = s.sectorsAfter .ok := rfl
@[simp] theorem State.succeed_regs (s : State) : (s.succeed).regs = s.regs := rfl
@[simp] theorem State.succeed_flight (s : State) : (s.succeed).flight = s.flight := rfl
@[simp] theorem State.succeed_issued (s : State) : (s.succeed).issued = s.issued := rfl
@[simp] theorem State.succeed_cacheOn (s : State) : (s.succeed).cacheOn = s.cacheOn := rfl
@[simp] theorem State.succeed_dev (s : State) : (s.succeed).dev = s.dev := rfl
@[simp] theorem State.succeed_env (s : State) : (s.succeed).env = s.env := rfl
@[simp] theorem State.succeed_host (s : State) : (s.succeed).host = s.host := rfl
@[simp] theorem State.succeed_trace (s : State) : (s.succeed).trace = s.trace := rfl

/-! ### `State.pollAgain` -/

@[simp] theorem State.pollAgain_cfg (pk : Signal) (s : State) : (s.pollAgain pk).cfg = s.cfg := rfl
@[simp] theorem State.pollAgain_ph (pk : Signal) (s : State) : (s.pollAgain pk).ph = s.ph := rfl
@[simp] theorem State.pollAgain_q (pk : Signal) (s : State) : (s.pollAgain pk).q = s.q := rfl
@[simp] theorem State.pollAgain_k (pk : Signal) (s : State) : (s.pollAgain pk).k = s.k := rfl
@[simp] theorem State.pollAgain_cnt (pk : Signal) (s : State) : (s.pollAgain pk).cnt = s.cnt + 1 := rfl
@[simp] theorem State.pollAgain_res (pk : Signal) (s : State) : (s.pollAgain pk).res = s.res := rfl
@[simp] theorem State.pollAgain_req (pk : Signal) (s : State) : (s.pollAgain pk).req = s.req := rfl
@[simp] theorem State.pollAgain_tainted (pk : Signal) (s : State) : (s.pollAgain pk).tainted = (s.tainted || (decide (pk = .act) && !s.issued)) := rfl
@[simp] theorem State.pollAgain_probed (pk : Signal) (s : State) : (s.pollAgain pk).probed = s.probed := rfl
@[simp] theorem State.pollAgain_sectorSize (pk : Signal) (s : State) : (s.pollAgain pk).sectorSize = s.sectorSize := rfl
@[simp] theorem State.pollAgain_flashSize (pk : Signal) (s : State) : (s.pollAgain pk).flashSize = s.flashSize := rfl
@[simp] theorem State.pollAgain_sectors (pk : Signal) (s : State) : (s.pollAgain pk).sectors = s.sectors := rfl
@[simp] theorem State.pollAgain_regs (pk : Signal) (s : State) : (s.pollAgain pk).regs = s.regs := rfl
@[simp] theorem State.pollAgain_flight (pk : Signal) (s : State) : (s.pollAgain pk).flight = s.flight := rfl
@[simp] theorem State.pollAgain_issued (pk : Signal) (s : State) : (s.pollAgain pk).issued = s.issued := rfl
@[simp] theorem State.pollAgain_cacheOn (pk : Signal) (s : State) : (s.pollAgain pk).cacheOn = s.cacheOn := rfl
@[simp] theorem State.pollAgain_dev (pk : Signal) (s : State) : (s.pollAgain pk).dev = s.dev := rfl
@[simp] theorem State.pollAgain_env (pk : Signal) (s : State) : (s.pollAgain pk).env = s.env := rfl
@[simp] theorem State.pollAgain_host (pk : Signal) (s : State) : (s.pollAgain pk).host = s.host := rfl
@[simp] theorem State.pollAgain_trace (pk : Signal) (s : State) : (s.pollAgain pk).trace = s.trace := rfl

/-! ### `State.returned` -/

@[simp] theorem State.returned_cfg (w : Word) (ws : List RegWrite) (s : State) : (s.returned w ws).cfg = s.cfg := rfl
@[simp] theorem State.returned_ph (w : Word) (ws : List RegWrite) (s : State) : (s.returned w ws).ph = .done := rfl
@[simp] theorem State.returned_q (w : Word) (ws : List RegWrite) (s : State) : (s.returned w ws).q = [] := rfl
@[simp] theorem State.returned_k (w : Word) (ws : List RegWrite) (s : State) : (s.returned w ws).k = s.k := rfl
@[simp] theorem State.returned_cnt (w : Word) (ws : List RegWrite) (s : State) : (s.returned w ws).cnt = s.cnt := rfl
@[simp] theorem State.returned_res (w : Word) (ws : List RegWrite) (s : State) : (s.returned w ws).res = .ok := rfl
@[simp] theorem State.returned_req (w : Word) (ws : List RegWrite) (s : State) : (s.returned w ws).req = s.req := rfl
@[simp] theorem State.returned_tainted (w : Word) (ws : List RegWrite) (s : State) : (s.returned w ws).tainted = s.tainted := rfl
@[simp] theorem State.returned_probed (w : Word) (ws : List RegWrite) (s : State) : (s.returned w ws).probed = s.probed := rfl
@[simp] theorem State.returned_sectorSize (w : Word) (ws : List RegWrite) (s : State) : (s.returned w ws).sectorSize = s.sectorSize := rfl
@[simp] theorem State.returned_flashSize (w : Word) (ws : List RegWrite) (s : State) : (s.returned w ws).flashSize = s.flashSize := rfl
@[simp] theorem State.returned_sectors (w : Word) (ws : List RegWrite) (s : State) : (s.returned w ws).sectors = s.sectors := rfl
@[simp] theorem State.returned_regs (w : Word) (ws : List RegWrite) (s : State) : (s.returned w ws).regs = s.regs := rfl
@[simp] theorem State.returned_flight (w : Word) (ws : List RegWrite) (s : State) : (s.returned w ws).flight = s.flight := rfl
@[simp] theorem State.returned_issued (w : Word) (ws : List RegWrite) (s : State) : (s.returned w ws).issued = s.issued := rfl
@[simp] theorem State.returned_cacheOn (w : Word) (ws : List RegWrite) (s : State) : (s.returned w ws).cacheOn = s.cacheOn := rfl
@[simp] theorem State.returned_dev (w : Word) (ws : List RegWrite) (s : State) : (s.returned w ws).dev = s.dev := rfl
@[simp] theorem State.returned_env (w : Word) (ws : List RegWrite) (s : State) : (s.returned w ws).env = s.env := rfl
@[simp] theorem State.returned_host (w : Word) (ws : List RegWrite) (s : State) : (s.returned w ws).host = { s.host with outWord := w, outWrites := ws } := rfl
@[simp] theorem State.returned_trace (w : Word) (ws : List RegWrite) (s : State) : (s.returned w ws).trace = s.trace := rfl

/-! ### `State.hostReturn` -/

@[simp] theorem State.hostReturn_cfg (r : Res) (s : State) : (s.hostReturn r).cfg = s.cfg := rfl
@[simp] theorem State.hostReturn_ph (r : Res) (s : State) : (s.hostReturn r).ph = s.ph := rfl
@[simp] theorem State.hostReturn_q (r : Res) (s : State) : (s.hostReturn r).q = s.q := rfl
@[simp] theorem State.hostReturn_k (r : Res) (s : State) : (s.hostReturn r).k = s.k := rfl
@[simp] theorem State.hostReturn_cnt (r : Res) (s : State) : (s.hostReturn r).cnt = s.cnt := rfl
@[simp] theorem State.hostReturn_res (r : Res) (s : State) : (s.hostReturn r).res = s.res := rfl
@[simp] theorem State.hostReturn_req (r : Res) (s : State) : (s.hostReturn r).req = s.req := rfl
@[simp] theorem State.hostReturn_tainted (r : Res) (s : State) : (s.hostReturn r).tainted = s.tainted := rfl
@[simp] theorem State.hostReturn_probed (r : Res) (s : State) : (s.hostReturn r).probed = s.probed := rfl
@[simp] theorem State.hostReturn_sectorSize (r : Res) (s : State) : (s.hostReturn r).sectorSize = s.sectorSize := rfl
@[simp] theorem State.hostReturn_flashSize (r : Res) (s : State) : (s.hostReturn r).flashSize = s.flashSize := rfl
@[simp] theorem State.hostReturn_sectors (r : Res) (s : State) : (s.hostReturn r).sectors = s.sectors := rfl
@[simp] theorem State.hostReturn_regs (r : Res) (s : State) : (s.hostReturn r).regs = s.regs := rfl
@[simp] theorem State.hostReturn_flight (r : Res) (s : State) : (s.hostReturn r).flight = s.flight := rfl
@[simp] theorem State.hostReturn_issued (r : Res) (s : State) : (s.hostReturn r).issued = s.issued := rfl
@[simp] theorem State.hostReturn_cacheOn (r : Res) (s : State) : (s.hostReturn r).cacheOn = s.cacheOn := rfl
@[simp] theorem State.hostReturn_dev (r : Res) (s : State) : (s.hostReturn r).dev = s.dev := rfl
@[simp] theorem State.hostReturn_env (r : Res) (s : State) : (s.hostReturn r).env = s.env := rfl
@[simp] theorem State.hostReturn_host (r : Res) (s : State) : (s.hostReturn r).host = { s.host with res := r, moves := [] } := rfl
@[simp] theorem State.hostReturn_trace (r : Res) (s : State) : (s.hostReturn r).trace = s.trace := rfl

/-! ### `State.plan` -/

@[simp] theorem State.plan_cfg (ms : List Move) (s : State) : (s.plan ms).cfg = s.cfg := rfl
@[simp] theorem State.plan_ph (ms : List Move) (s : State) : (s.plan ms).ph = s.ph := rfl
@[simp] theorem State.plan_q (ms : List Move) (s : State) : (s.plan ms).q = s.q := rfl
@[simp] theorem State.plan_k (ms : List Move) (s : State) : (s.plan ms).k = s.k := rfl
@[simp] theorem State.plan_cnt (ms : List Move) (s : State) : (s.plan ms).cnt = s.cnt := rfl
@[simp] theorem State.plan_res (ms : List Move) (s : State) : (s.plan ms).res = s.res := rfl
@[simp] theorem State.plan_req (ms : List Move) (s : State) : (s.plan ms).req = s.req := rfl
@[simp] theorem State.plan_tainted (ms : List Move) (s : State) : (s.plan ms).tainted = s.tainted := rfl
@[simp] theorem State.plan_probed (ms : List Move) (s : State) : (s.plan ms).probed = s.probed := rfl
@[simp] theorem State.plan_sectorSize (ms : List Move) (s : State) : (s.plan ms).sectorSize = s.sectorSize := rfl
@[simp] theorem State.plan_flashSize (ms : List Move) (s : State) : (s.plan ms).flashSize = s.flashSize := rfl
@[simp] theorem State.plan_sectors (ms : List Move) (s : State) : (s.plan ms).sectors = s.sectors := rfl
@[simp] theorem State.plan_regs (ms : List Move) (s : State) : (s.plan ms).regs = s.regs := rfl
@[simp] theorem State.plan_flight (ms : List Move) (s : State) : (s.plan ms).flight = s.flight := rfl
@[simp] theorem State.plan_issued (ms : List Move) (s : State) : (s.plan ms).issued = s.issued := rfl
@[simp] theorem State.plan_cacheOn (ms : List Move) (s : State) : (s.plan ms).cacheOn = s.cacheOn := rfl
@[simp] theorem State.plan_dev (ms : List Move) (s : State) : (s.plan ms).dev = s.dev := rfl
@[simp] theorem State.plan_env (ms : List Move) (s : State) : (s.plan ms).env = s.env := rfl
@[simp] theorem State.plan_host (ms : List Move) (s : State) : (s.plan ms).host = { s.host with moves := ms, scratch := [] } := rfl
@[simp] theorem State.plan_trace (ms : List Move) (s : State) : (s.plan ms).trace = [] := rfl

/-! ### `State.setGeometry` -/

@[simp] theorem State.setGeometry_cfg (d : DeviceSpec) (s : State) : (s.setGeometry d).cfg = s.cfg := rfl
@[simp] theorem State.setGeometry_ph (d : DeviceSpec) (s : State) : (s.setGeometry d).ph = s.ph := rfl
@[simp] theorem State.setGeometry_q (d : DeviceSpec) (s : State) : (s.setGeometry d).q = s.q := rfl
@[simp] theorem State.setGeometry_k (d : DeviceSpec) (s : State) : (s.setGeometry d).k = s.k := rfl
@[simp] theorem State.setGeometry_cnt (d : DeviceSpec) (s : State) : (s.setGeometry d).cnt = s.cnt := rfl
@[simp] theorem State.setGeometry_res (d : DeviceSpec) (s : State) : (s.setGeometry d).res = s.res := rfl
@[simp] theorem State.setGeometry_req (d : DeviceSpec) (s : State) : (s.setGeometry d).req = s.req := rfl
@[simp] theorem State.setGeometry_tainted (d : DeviceSpec) (s : State) : (s.setGeometry d).tainted = s.tainted := rfl
@[simp] theorem State.setGeometry_probed (d : DeviceSpec) (s : State) : (s.setGeometry d).probed = s.probed := rfl
@[simp] theorem State.setGeometry_sectorSize (d : DeviceSpec) (s : State) : (s.setGeometry d).sectorSize = d.sectorKB * 1024 := rfl
@[simp] theorem State.setGeometry_flashSize (d : DeviceSpec) (s : State) : (s.setGeometry d).flashSize = d.flashKB * 1024 := rfl
@[simp] theorem State.setGeometry_sectors (d : DeviceSpec) (s : State) : (s.setGeometry d).sectors = List.replicate (d.flashKB * 1024 / (d.sectorKB * 1024)) ⟨.unknown, .unknown⟩ := rfl
@[simp] theorem State.setGeometry_regs (d : DeviceSpec) (s : State) : (s.setGeometry d).regs = s.regs := rfl
@[simp] theorem State.setGeometry_flight (d : DeviceSpec) (s : State) : (s.setGeometry d).flight = s.flight := rfl
@[simp] theorem State.setGeometry_issued (d : DeviceSpec) (s : State) : (s.setGeometry d).issued = s.issued := rfl
@[simp] theorem State.setGeometry_cacheOn (d : DeviceSpec) (s : State) : (s.setGeometry d).cacheOn = s.cacheOn := rfl
@[simp] theorem State.setGeometry_dev (d : DeviceSpec) (s : State) : (s.setGeometry d).dev = s.dev := rfl
@[simp] theorem State.setGeometry_env (d : DeviceSpec) (s : State) : (s.setGeometry d).env = s.env := rfl
@[simp] theorem State.setGeometry_host (d : DeviceSpec) (s : State) : (s.setGeometry d).host = s.host := rfl
@[simp] theorem State.setGeometry_trace (d : DeviceSpec) (s : State) : (s.setGeometry d).trace = s.trace := rfl

end Sys2Proof.Machine
end

