-- ==== Sys2Proof/Laws/Ops.lean ====
section
/-! SUPPORT. What each named operation leaves unchanged, field by field, and one lemma per operation
that says everything it can do. -/
namespace Sys2Proof.Machine

/-! ### Dispatch -/

/-- Every arm of `exec` runs the phase of its instruction's descriptor. -/
theorem exec_eq (i : Instr) (s : State) : exec i s = runPhase (i.ins s.cfg) s := by
  cases i <;> rfl


/-! ### `State.startBusy` -/

@[simp] theorem State.startBusy_cfg (s : State) : (s.startBusy).cfg = s.cfg := by
  unfold State.startBusy; split <;> rfl
@[simp] theorem State.startBusy_ph (s : State) : (s.startBusy).ph = s.ph := by
  unfold State.startBusy; split <;> rfl
@[simp] theorem State.startBusy_q (s : State) : (s.startBusy).q = s.q := by
  unfold State.startBusy; split <;> rfl
@[simp] theorem State.startBusy_k (s : State) : (s.startBusy).k = s.k := by
  unfold State.startBusy; split <;> rfl
@[simp] theorem State.startBusy_cnt (s : State) : (s.startBusy).cnt = s.cnt := by
  unfold State.startBusy; split <;> rfl
@[simp] theorem State.startBusy_res (s : State) : (s.startBusy).res = s.res := by
  unfold State.startBusy; split <;> rfl
@[simp] theorem State.startBusy_req (s : State) : (s.startBusy).req = s.req := by
  unfold State.startBusy; split <;> rfl
@[simp] theorem State.startBusy_tainted (s : State) : (s.startBusy).tainted = s.tainted := by
  unfold State.startBusy; split <;> rfl
@[simp] theorem State.startBusy_probed (s : State) : (s.startBusy).probed = s.probed := by
  unfold State.startBusy; split <;> rfl
@[simp] theorem State.startBusy_sectorSize (s : State) : (s.startBusy).sectorSize = s.sectorSize := by
  unfold State.startBusy; split <;> rfl
@[simp] theorem State.startBusy_flashSize (s : State) : (s.startBusy).flashSize = s.flashSize := by
  unfold State.startBusy; split <;> rfl
@[simp] theorem State.startBusy_sectors (s : State) : (s.startBusy).sectors = s.sectors := by
  unfold State.startBusy; split <;> rfl
@[simp] theorem State.startBusy_flight (s : State) : (s.startBusy).flight = s.flight := by
  unfold State.startBusy; split <;> rfl
@[simp] theorem State.startBusy_issued (s : State) : (s.startBusy).issued = s.issued := by
  unfold State.startBusy; split <;> rfl
@[simp] theorem State.startBusy_cacheOn (s : State) : (s.startBusy).cacheOn = s.cacheOn := by
  unfold State.startBusy; split <;> rfl
@[simp] theorem State.startBusy_dev (s : State) : (s.startBusy).dev = s.dev := by
  unfold State.startBusy; split <;> rfl
@[simp] theorem State.startBusy_host (s : State) : (s.startBusy).host = s.host := by
  unfold State.startBusy; split <;> rfl
@[simp] theorem State.startBusy_trace (s : State) : (s.startBusy).trace = s.trace := by
  unfold State.startBusy; split <;> rfl

/-! ### `State.trigger` -/

@[simp] theorem State.trigger_cfg (w : Word) (s : State) : (s.trigger w).cfg = s.cfg := by
  unfold State.trigger; split; split <;> simp; rfl
@[simp] theorem State.trigger_ph (w : Word) (s : State) : (s.trigger w).ph = s.ph := by
  unfold State.trigger; split; split <;> simp; rfl
@[simp] theorem State.trigger_q (w : Word) (s : State) : (s.trigger w).q = s.q := by
  unfold State.trigger; split; split <;> simp; rfl
@[simp] theorem State.trigger_k (w : Word) (s : State) : (s.trigger w).k = s.k := by
  unfold State.trigger; split; split <;> simp; rfl
@[simp] theorem State.trigger_cnt (w : Word) (s : State) : (s.trigger w).cnt = s.cnt := by
  unfold State.trigger; split; split <;> simp; rfl
@[simp] theorem State.trigger_res (w : Word) (s : State) : (s.trigger w).res = s.res := by
  unfold State.trigger; split; split <;> simp; rfl
@[simp] theorem State.trigger_req (w : Word) (s : State) : (s.trigger w).req = s.req := by
  unfold State.trigger; split; split <;> simp; rfl
@[simp] theorem State.trigger_tainted (w : Word) (s : State) : (s.trigger w).tainted = s.tainted := by
  unfold State.trigger; split; split <;> simp; rfl
@[simp] theorem State.trigger_probed (w : Word) (s : State) : (s.trigger w).probed = s.probed := by
  unfold State.trigger; split; split <;> simp; rfl
@[simp] theorem State.trigger_sectorSize (w : Word) (s : State) : (s.trigger w).sectorSize = s.sectorSize := by
  unfold State.trigger; split; split <;> simp; rfl
@[simp] theorem State.trigger_flashSize (w : Word) (s : State) : (s.trigger w).flashSize = s.flashSize := by
  unfold State.trigger; split; split <;> simp; rfl
@[simp] theorem State.trigger_sectors (w : Word) (s : State) : (s.trigger w).sectors = s.sectors := by
  unfold State.trigger; split; split <;> simp; rfl
@[simp] theorem State.trigger_cacheOn (w : Word) (s : State) : (s.trigger w).cacheOn = s.cacheOn := by
  unfold State.trigger; split; split <;> simp; rfl
@[simp] theorem State.trigger_dev (w : Word) (s : State) : (s.trigger w).dev = s.dev := by
  unfold State.trigger; split; split <;> simp; rfl
@[simp] theorem State.trigger_host (w : Word) (s : State) : (s.trigger w).host = s.host := by
  unfold State.trigger; split; split <;> simp; rfl
@[simp] theorem State.trigger_trace (w : Word) (s : State) : (s.trigger w).trace = s.trace := by
  unfold State.trigger; split; split <;> simp; rfl

/-! ### `State.landed` -/

@[simp] theorem State.landed_cfg (r : Reg) (v : Word) (s : State) : (s.landed r v).cfg = s.cfg := by
  unfold State.landed; split <;> simp
@[simp] theorem State.landed_ph (r : Reg) (v : Word) (s : State) : (s.landed r v).ph = s.ph := by
  unfold State.landed; split <;> simp
@[simp] theorem State.landed_q (r : Reg) (v : Word) (s : State) : (s.landed r v).q = s.q := by
  unfold State.landed; split <;> simp
@[simp] theorem State.landed_k (r : Reg) (v : Word) (s : State) : (s.landed r v).k = s.k := by
  unfold State.landed; split <;> simp
@[simp] theorem State.landed_cnt (r : Reg) (v : Word) (s : State) : (s.landed r v).cnt = s.cnt := by
  unfold State.landed; split <;> simp
@[simp] theorem State.landed_res (r : Reg) (v : Word) (s : State) : (s.landed r v).res = s.res := by
  unfold State.landed; split <;> simp
@[simp] theorem State.landed_req (r : Reg) (v : Word) (s : State) : (s.landed r v).req = s.req := by
  unfold State.landed; split <;> simp
@[simp] theorem State.landed_tainted (r : Reg) (v : Word) (s : State) : (s.landed r v).tainted = s.tainted := by
  unfold State.landed; split <;> simp
@[simp] theorem State.landed_probed (r : Reg) (v : Word) (s : State) : (s.landed r v).probed = s.probed := by
  unfold State.landed; split <;> simp
@[simp] theorem State.landed_sectorSize (r : Reg) (v : Word) (s : State) : (s.landed r v).sectorSize = s.sectorSize := by
  unfold State.landed; split <;> simp
@[simp] theorem State.landed_flashSize (r : Reg) (v : Word) (s : State) : (s.landed r v).flashSize = s.flashSize := by
  unfold State.landed; split <;> simp
@[simp] theorem State.landed_sectors (r : Reg) (v : Word) (s : State) : (s.landed r v).sectors = s.sectors := by
  unfold State.landed; split <;> simp
@[simp] theorem State.landed_cacheOn (r : Reg) (v : Word) (s : State) : (s.landed r v).cacheOn = s.cacheOn := by
  unfold State.landed; split <;> simp
@[simp] theorem State.landed_dev (r : Reg) (v : Word) (s : State) : (s.landed r v).dev = s.dev := by
  unfold State.landed; split <;> simp
@[simp] theorem State.landed_host (r : Reg) (v : Word) (s : State) : (s.landed r v).host = s.host := by
  unfold State.landed; split <;> simp
@[simp] theorem State.landed_trace (r : Reg) (v : Word) (s : State) : (s.landed r v).trace = s.trace := by
  unfold State.landed; split <;> simp

/-! ### `State.lost` -/

@[simp] theorem State.lost_cfg (r : Reg) (v : Word) (s : State) : (s.lost r v).cfg = s.cfg := by
  unfold State.lost; split <;> rfl
@[simp] theorem State.lost_ph (r : Reg) (v : Word) (s : State) : (s.lost r v).ph = s.ph := by
  unfold State.lost; split <;> rfl
@[simp] theorem State.lost_q (r : Reg) (v : Word) (s : State) : (s.lost r v).q = s.q := by
  unfold State.lost; split <;> rfl
@[simp] theorem State.lost_k (r : Reg) (v : Word) (s : State) : (s.lost r v).k = s.k := by
  unfold State.lost; split <;> rfl
@[simp] theorem State.lost_cnt (r : Reg) (v : Word) (s : State) : (s.lost r v).cnt = s.cnt := by
  unfold State.lost; split <;> rfl
@[simp] theorem State.lost_res (r : Reg) (v : Word) (s : State) : (s.lost r v).res = s.res := by
  unfold State.lost; split <;> rfl
@[simp] theorem State.lost_req (r : Reg) (v : Word) (s : State) : (s.lost r v).req = s.req := by
  unfold State.lost; split <;> rfl
@[simp] theorem State.lost_tainted (r : Reg) (v : Word) (s : State) : (s.lost r v).tainted = s.tainted := by
  unfold State.lost; split <;> rfl
@[simp] theorem State.lost_probed (r : Reg) (v : Word) (s : State) : (s.lost r v).probed = s.probed := by
  unfold State.lost; split <;> rfl
@[simp] theorem State.lost_sectorSize (r : Reg) (v : Word) (s : State) : (s.lost r v).sectorSize = s.sectorSize := by
  unfold State.lost; split <;> rfl
@[simp] theorem State.lost_flashSize (r : Reg) (v : Word) (s : State) : (s.lost r v).flashSize = s.flashSize := by
  unfold State.lost; split <;> rfl
@[simp] theorem State.lost_sectors (r : Reg) (v : Word) (s : State) : (s.lost r v).sectors = s.sectors := by
  unfold State.lost; split <;> rfl
@[simp] theorem State.lost_issued (r : Reg) (v : Word) (s : State) : (s.lost r v).issued = s.issued := by
  unfold State.lost; split <;> rfl
@[simp] theorem State.lost_cacheOn (r : Reg) (v : Word) (s : State) : (s.lost r v).cacheOn = s.cacheOn := by
  unfold State.lost; split <;> rfl
@[simp] theorem State.lost_dev (r : Reg) (v : Word) (s : State) : (s.lost r v).dev = s.dev := by
  unfold State.lost; split <;> rfl
@[simp] theorem State.lost_env (r : Reg) (v : Word) (s : State) : (s.lost r v).env = s.env := by
  unfold State.lost; split <;> rfl
@[simp] theorem State.lost_host (r : Reg) (v : Word) (s : State) : (s.lost r v).host = s.host := by
  unfold State.lost; split <;> rfl
@[simp] theorem State.lost_trace (r : Reg) (v : Word) (s : State) : (s.lost r v).trace = s.trace := by
  unfold State.lost; split <;> rfl

/-! ### `State.complete` -/

@[simp] theorem State.complete_cfg (s : State) : (s.complete).cfg = s.cfg := by
  unfold State.complete; split <;> rfl
@[simp] theorem State.complete_ph (s : State) : (s.complete).ph = s.ph := by
  unfold State.complete; split <;> rfl
@[simp] theorem State.complete_q (s : State) : (s.complete).q = s.q := by
  unfold State.complete; split <;> rfl
@[simp] theorem State.complete_k (s : State) : (s.complete).k = s.k := by
  unfold State.complete; split <;> rfl
@[simp] theorem State.complete_cnt (s : State) : (s.complete).cnt = s.cnt := by
  unfold State.complete; split <;> rfl
@[simp] theorem State.complete_res (s : State) : (s.complete).res = s.res := by
  unfold State.complete; split <;> rfl
@[simp] theorem State.complete_req (s : State) : (s.complete).req = s.req := by
  unfold State.complete; split <;> rfl
@[simp] theorem State.complete_tainted (s : State) : (s.complete).tainted = s.tainted := by
  unfold State.complete; split <;> rfl
@[simp] theorem State.complete_probed (s : State) : (s.complete).probed = s.probed := by
  unfold State.complete; split <;> rfl
@[simp] theorem State.complete_sectorSize (s : State) : (s.complete).sectorSize = s.sectorSize := by
  unfold State.complete; split <;> rfl
@[simp] theorem State.complete_flashSize (s : State) : (s.complete).flashSize = s.flashSize := by
  unfold State.complete; split <;> rfl
@[simp] theorem State.complete_sectors (s : State) : (s.complete).sectors = s.sectors := by
  unfold State.complete; split <;> rfl
@[simp] theorem State.complete_regs (s : State) : (s.complete).regs = s.regs := by
  unfold State.complete; split <;> rfl
@[simp] theorem State.complete_issued (s : State) : (s.complete).issued = s.issued := by
  unfold State.complete; split <;> rfl
@[simp] theorem State.complete_cacheOn (s : State) : (s.complete).cacheOn = s.cacheOn := by
  unfold State.complete; split <;> rfl
@[simp] theorem State.complete_host (s : State) : (s.complete).host = s.host := by
  unfold State.complete; split <;> rfl
@[simp] theorem State.complete_trace (s : State) : (s.complete).trace = s.trace := by
  unfold State.complete; split <;> rfl

/-! ### `State.finishBusy` -/

@[simp] theorem State.finishBusy_cfg (s : State) : (s.finishBusy).cfg = s.cfg := by
  simp [State.finishBusy]
@[simp] theorem State.finishBusy_ph (s : State) : (s.finishBusy).ph = s.ph := by
  simp [State.finishBusy]
@[simp] theorem State.finishBusy_q (s : State) : (s.finishBusy).q = s.q := by
  simp [State.finishBusy]
@[simp] theorem State.finishBusy_k (s : State) : (s.finishBusy).k = s.k := by
  simp [State.finishBusy]
@[simp] theorem State.finishBusy_cnt (s : State) : (s.finishBusy).cnt = s.cnt := by
  simp [State.finishBusy]
@[simp] theorem State.finishBusy_res (s : State) : (s.finishBusy).res = s.res := by
  simp [State.finishBusy]
@[simp] theorem State.finishBusy_req (s : State) : (s.finishBusy).req = s.req := by
  simp [State.finishBusy]
@[simp] theorem State.finishBusy_tainted (s : State) : (s.finishBusy).tainted = s.tainted := by
  simp [State.finishBusy]
@[simp] theorem State.finishBusy_probed (s : State) : (s.finishBusy).probed = s.probed := by
  simp [State.finishBusy]
@[simp] theorem State.finishBusy_sectorSize (s : State) : (s.finishBusy).sectorSize = s.sectorSize := by
  simp [State.finishBusy]
@[simp] theorem State.finishBusy_flashSize (s : State) : (s.finishBusy).flashSize = s.flashSize := by
  simp [State.finishBusy]
@[simp] theorem State.finishBusy_sectors (s : State) : (s.finishBusy).sectors = s.sectors := by
  simp [State.finishBusy]
@[simp] theorem State.finishBusy_issued (s : State) : (s.finishBusy).issued = s.issued := by
  simp [State.finishBusy]
@[simp] theorem State.finishBusy_cacheOn (s : State) : (s.finishBusy).cacheOn = s.cacheOn := by
  simp [State.finishBusy]
@[simp] theorem State.finishBusy_host (s : State) : (s.finishBusy).host = s.host := by
  simp [State.finishBusy]
@[simp] theorem State.finishBusy_trace (s : State) : (s.finishBusy).trace = s.trace := by
  simp [State.finishBusy]

/-! ### `State.tickBusy` -/

@[simp] theorem State.tickBusy_cfg (r : Reg) (s : State) : (s.tickBusy r).cfg = s.cfg := by
  unfold State.tickBusy; split; dsimp only; split <;> simp; rfl
@[simp] theorem State.tickBusy_ph (r : Reg) (s : State) : (s.tickBusy r).ph = s.ph := by
  unfold State.tickBusy; split; dsimp only; split <;> simp; rfl
@[simp] theorem State.tickBusy_q (r : Reg) (s : State) : (s.tickBusy r).q = s.q := by
  unfold State.tickBusy; split; dsimp only; split <;> simp; rfl
@[simp] theorem State.tickBusy_k (r : Reg) (s : State) : (s.tickBusy r).k = s.k := by
  unfold State.tickBusy; split; dsimp only; split <;> simp; rfl
@[simp] theorem State.tickBusy_cnt (r : Reg) (s : State) : (s.tickBusy r).cnt = s.cnt := by
  unfold State.tickBusy; split; dsimp only; split <;> simp; rfl
@[simp] theorem State.tickBusy_res (r : Reg) (s : State) : (s.tickBusy r).res = s.res := by
  unfold State.tickBusy; split; dsimp only; split <;> simp; rfl
@[simp] theorem State.tickBusy_req (r : Reg) (s : State) : (s.tickBusy r).req = s.req := by
  unfold State.tickBusy; split; dsimp only; split <;> simp; rfl
@[simp] theorem State.tickBusy_tainted (r : Reg) (s : State) : (s.tickBusy r).tainted = s.tainted := by
  unfold State.tickBusy; split; dsimp only; split <;> simp; rfl
@[simp] theorem State.tickBusy_probed (r : Reg) (s : State) : (s.tickBusy r).probed = s.probed := by
  unfold State.tickBusy; split; dsimp only; split <;> simp; rfl
@[simp] theorem State.tickBusy_sectorSize (r : Reg) (s : State) : (s.tickBusy r).sectorSize = s.sectorSize := by
  unfold State.tickBusy; split; dsimp only; split <;> simp; rfl
@[simp] theorem State.tickBusy_flashSize (r : Reg) (s : State) : (s.tickBusy r).flashSize = s.flashSize := by
  unfold State.tickBusy; split; dsimp only; split <;> simp; rfl
@[simp] theorem State.tickBusy_sectors (r : Reg) (s : State) : (s.tickBusy r).sectors = s.sectors := by
  unfold State.tickBusy; split; dsimp only; split <;> simp; rfl
@[simp] theorem State.tickBusy_issued (r : Reg) (s : State) : (s.tickBusy r).issued = s.issued := by
  unfold State.tickBusy; split; dsimp only; split <;> simp; rfl
@[simp] theorem State.tickBusy_cacheOn (r : Reg) (s : State) : (s.tickBusy r).cacheOn = s.cacheOn := by
  unfold State.tickBusy; split; dsimp only; split <;> simp; rfl
@[simp] theorem State.tickBusy_host (r : Reg) (s : State) : (s.tickBusy r).host = s.host := by
  unfold State.tickBusy; split; dsimp only; split <;> simp; rfl
@[simp] theorem State.tickBusy_trace (r : Reg) (s : State) : (s.tickBusy r).trace = s.trace := by
  unfold State.tickBusy; split; dsimp only; split <;> simp; rfl

/-! ### `State.writeReg` -/

@[simp] theorem State.writeReg_cfg (r : Reg) (v : Word) (s : State) : (s.writeReg r v).2.cfg = s.cfg := by
  unfold State.writeReg; split; split <;> simp; simp
@[simp] theorem State.writeReg_ph (r : Reg) (v : Word) (s : State) : (s.writeReg r v).2.ph = s.ph := by
  unfold State.writeReg; split; split <;> simp; simp
@[simp] theorem State.writeReg_q (r : Reg) (v : Word) (s : State) : (s.writeReg r v).2.q = s.q := by
  unfold State.writeReg; split; split <;> simp; simp
@[simp] theorem State.writeReg_k (r : Reg) (v : Word) (s : State) : (s.writeReg r v).2.k = s.k := by
  unfold State.writeReg; split; split <;> simp; simp
@[simp] theorem State.writeReg_cnt (r : Reg) (v : Word) (s : State) : (s.writeReg r v).2.cnt = s.cnt := by
  unfold State.writeReg; split; split <;> simp; simp
@[simp] theorem State.writeReg_res (r : Reg) (v : Word) (s : State) : (s.writeReg r v).2.res = s.res := by
  unfold State.writeReg; split; split <;> simp; simp
@[simp] theorem State.writeReg_req (r : Reg) (v : Word) (s : State) : (s.writeReg r v).2.req = s.req := by
  unfold State.writeReg; split; split <;> simp; simp
@[simp] theorem State.writeReg_tainted (r : Reg) (v : Word) (s : State) : (s.writeReg r v).2.tainted = s.tainted := by
  unfold State.writeReg; split; split <;> simp; simp
@[simp] theorem State.writeReg_probed (r : Reg) (v : Word) (s : State) : (s.writeReg r v).2.probed = s.probed := by
  unfold State.writeReg; split; split <;> simp; simp
@[simp] theorem State.writeReg_sectorSize (r : Reg) (v : Word) (s : State) : (s.writeReg r v).2.sectorSize = s.sectorSize := by
  unfold State.writeReg; split; split <;> simp; simp
@[simp] theorem State.writeReg_flashSize (r : Reg) (v : Word) (s : State) : (s.writeReg r v).2.flashSize = s.flashSize := by
  unfold State.writeReg; split; split <;> simp; simp
@[simp] theorem State.writeReg_sectors (r : Reg) (v : Word) (s : State) : (s.writeReg r v).2.sectors = s.sectors := by
  unfold State.writeReg; split; split <;> simp; simp
@[simp] theorem State.writeReg_cacheOn (r : Reg) (v : Word) (s : State) : (s.writeReg r v).2.cacheOn = s.cacheOn := by
  unfold State.writeReg; split; split <;> simp; simp
@[simp] theorem State.writeReg_dev (r : Reg) (v : Word) (s : State) : (s.writeReg r v).2.dev = s.dev := by
  unfold State.writeReg; split; split <;> simp; simp
@[simp] theorem State.writeReg_host (r : Reg) (v : Word) (s : State) : (s.writeReg r v).2.host = s.host := by
  unfold State.writeReg; split; split <;> simp; simp

/-! ### `State.readReg` -/

@[simp] theorem State.readReg_cfg (r : Reg) (s : State) : (s.readReg r).2.2.cfg = s.cfg := by
  unfold State.readReg; split; split <;> simp; simp
@[simp] theorem State.readReg_ph (r : Reg) (s : State) : (s.readReg r).2.2.ph = s.ph := by
  unfold State.readReg; split; split <;> simp; simp
@[simp] theorem State.readReg_q (r : Reg) (s : State) : (s.readReg r).2.2.q = s.q := by
  unfold State.readReg; split; split <;> simp; simp
@[simp] theorem State.readReg_k (r : Reg) (s : State) : (s.readReg r).2.2.k = s.k := by
  unfold State.readReg; split; split <;> simp; simp
@[simp] theorem State.readReg_cnt (r : Reg) (s : State) : (s.readReg r).2.2.cnt = s.cnt := by
  unfold State.readReg; split; split <;> simp; simp
@[simp] theorem State.readReg_res (r : Reg) (s : State) : (s.readReg r).2.2.res = s.res := by
  unfold State.readReg; split; split <;> simp; simp
@[simp] theorem State.readReg_req (r : Reg) (s : State) : (s.readReg r).2.2.req = s.req := by
  unfold State.readReg; split; split <;> simp; simp
@[simp] theorem State.readReg_tainted (r : Reg) (s : State) : (s.readReg r).2.2.tainted = s.tainted := by
  unfold State.readReg; split; split <;> simp; simp
@[simp] theorem State.readReg_probed (r : Reg) (s : State) : (s.readReg r).2.2.probed = s.probed := by
  unfold State.readReg; split; split <;> simp; simp
@[simp] theorem State.readReg_sectorSize (r : Reg) (s : State) : (s.readReg r).2.2.sectorSize = s.sectorSize := by
  unfold State.readReg; split; split <;> simp; simp
@[simp] theorem State.readReg_flashSize (r : Reg) (s : State) : (s.readReg r).2.2.flashSize = s.flashSize := by
  unfold State.readReg; split; split <;> simp; simp
@[simp] theorem State.readReg_sectors (r : Reg) (s : State) : (s.readReg r).2.2.sectors = s.sectors := by
  unfold State.readReg; split; split <;> simp; simp
@[simp] theorem State.readReg_issued (r : Reg) (s : State) : (s.readReg r).2.2.issued = s.issued := by
  unfold State.readReg; split; split <;> simp; simp
@[simp] theorem State.readReg_cacheOn (r : Reg) (s : State) : (s.readReg r).2.2.cacheOn = s.cacheOn := by
  unfold State.readReg; split; split <;> simp; simp
@[simp] theorem State.readReg_host (r : Reg) (s : State) : (s.readReg r).2.2.host = s.host := by
  unfold State.readReg; split; split <;> simp; simp

/-! ### `State.begin` -/

@[simp] theorem State.begin_cfg (s : State) : (s.begin).cfg = s.cfg := by
  unfold State.begin; split <;> try rfl
  split; rfl; split <;> rfl
@[simp] theorem State.begin_q (s : State) : (s.begin).q = s.q := by
  unfold State.begin; split <;> try rfl
  split; rfl; split <;> rfl
@[simp] theorem State.begin_res (s : State) : (s.begin).res = s.res := by
  unfold State.begin; split <;> try rfl
  split; rfl; split <;> rfl
@[simp] theorem State.begin_req (s : State) : (s.begin).req = s.req := by
  unfold State.begin; split <;> try rfl
  split; rfl; split <;> rfl
@[simp] theorem State.begin_tainted (s : State) : (s.begin).tainted = s.tainted := by
  unfold State.begin; split <;> try rfl
  split; rfl; split <;> rfl
@[simp] theorem State.begin_probed (s : State) : (s.begin).probed = s.probed := by
  unfold State.begin; split <;> try rfl
  split; rfl; split <;> rfl
@[simp] theorem State.begin_sectorSize (s : State) : (s.begin).sectorSize = s.sectorSize := by
  unfold State.begin; split <;> try rfl
  split; rfl; split <;> rfl
@[simp] theorem State.begin_flashSize (s : State) : (s.begin).flashSize = s.flashSize := by
  unfold State.begin; split <;> try rfl
  split; rfl; split <;> rfl
@[simp] theorem State.begin_sectors (s : State) : (s.begin).sectors = s.sectors := by
  unfold State.begin; split <;> try rfl
  split; rfl; split <;> rfl
@[simp] theorem State.begin_regs (s : State) : (s.begin).regs = s.regs := by
  unfold State.begin; split <;> try rfl
  split; rfl; split <;> rfl
@[simp] theorem State.begin_flight (s : State) : (s.begin).flight = s.flight := by
  unfold State.begin; split <;> try rfl
  split; rfl; split <;> rfl
@[simp] theorem State.begin_issued (s : State) : (s.begin).issued = s.issued := by
  unfold State.begin; split <;> try rfl
  split; rfl; split <;> rfl
@[simp] theorem State.begin_cacheOn (s : State) : (s.begin).cacheOn = s.cacheOn := by
  unfold State.begin; split <;> try rfl
  split; rfl; split <;> rfl
@[simp] theorem State.begin_dev (s : State) : (s.begin).dev = s.dev := by
  unfold State.begin; split <;> try rfl
  split; rfl; split <;> rfl
@[simp] theorem State.begin_env (s : State) : (s.begin).env = s.env := by
  unfold State.begin; split <;> try rfl
  split; rfl; split <;> rfl
@[simp] theorem State.begin_host (s : State) : (s.begin).host = s.host := by
  unfold State.begin; split <;> try rfl
  split; rfl; split <;> rfl
@[simp] theorem State.begin_trace (s : State) : (s.begin).trace = s.trace := by
  unfold State.begin; split <;> try rfl
  split; rfl; split <;> rfl

/-! ### `State.finishHead` -/

@[simp] theorem State.finishHead_cfg (s : State) : (s.finishHead).cfg = s.cfg := by
  unfold State.finishHead; dsimp only; split <;> simp
@[simp] theorem State.finishHead_req (s : State) : (s.finishHead).req = s.req := by
  unfold State.finishHead; dsimp only; split <;> simp
@[simp] theorem State.finishHead_tainted (s : State) : (s.finishHead).tainted = s.tainted := by
  unfold State.finishHead; dsimp only; split <;> simp
@[simp] theorem State.finishHead_probed (s : State) : (s.finishHead).probed = s.probed := by
  unfold State.finishHead; dsimp only; split <;> simp
@[simp] theorem State.finishHead_sectorSize (s : State) : (s.finishHead).sectorSize = s.sectorSize := by
  unfold State.finishHead; dsimp only; split <;> simp
@[simp] theorem State.finishHead_flashSize (s : State) : (s.finishHead).flashSize = s.flashSize := by
  unfold State.finishHead; dsimp only; split <;> simp
@[simp] theorem State.finishHead_regs (s : State) : (s.finishHead).regs = s.regs := by
  unfold State.finishHead; dsimp only; split <;> simp
@[simp] theorem State.finishHead_issued (s : State) : (s.finishHead).issued = s.issued := by
  unfold State.finishHead; dsimp only; split <;> simp
@[simp] theorem State.finishHead_cacheOn (s : State) : (s.finishHead).cacheOn = s.cacheOn := by
  unfold State.finishHead; dsimp only; split <;> simp
@[simp] theorem State.finishHead_host (s : State) : (s.finishHead).host = s.host := by
  unfold State.finishHead; dsimp only; split <;> simp
@[simp] theorem State.finishHead_trace (s : State) : (s.finishHead).trace = s.trace := by
  unfold State.finishHead; dsimp only; split <;> simp

end Sys2Proof.Machine
end

