-- ==== Sys2Proof/Laws/Interface.lean ====
section
/-! SUPPORT. What one transaction of the Register Interface does under the free oracle, what a
transaction can do at all, and how the device keeps the flash array's canonical form. -/
namespace Sys2Proof.Machine

/-! ### The free oracle's answer -/

/-- The answer given. -/
theorem Answered.answer {s : State} {d : Draw} {ds : List Draw} (h : Answered s d ds) : s.answer = d := by
  simp [State.answer, h.2]

/-- The environment after the answer. -/
theorem Answered.env {s : State} {d : Draw} {ds : List Draw} (h : Answered s d ds) :
    s.popAnswer = { s with env := s.env.next ds } := by
  simp [State.popAnswer, Env.next, h.2]

/-- A write that answers ok. -/
theorem Answered.write_ok {s : State} {d : Draw} {ds : List Draw} (h : Answered s d ds)
    (hok : d.ok = true) (r : Reg) (v : Word) :
    s.writeReg r v =
      (true, (({ s with env := s.env.next ds } : State).landed r v).log (.w (r.address s.cfg) v)) := by
  simp [State.writeReg, h.1, h.answer, hok, h.env]

/-- A write that answers not ok (R81). -/
theorem Answered.write_fail {s : State} {d : Draw} {ds : List Draw} (h : Answered s d ds)
    (hok : d.ok = false) (r : Reg) (v : Word) :
    s.writeReg r v =
      (false, ({ s.lost r v with env := s.env.next ds } : State).log (.wFail (r.address s.cfg) v)) := by
  have : (s.lost r v).popAnswer = { s.lost r v with env := s.env.next ds } := by
    simp [State.popAnswer, Env.next, h.2]
  simp [State.writeReg, h.1, h.answer, hok, this]

/-- A read that answers ok. -/
theorem Answered.read_ok {s : State} {d : Draw} {ds : List Draw} (h : Answered s d ds)
    (hok : d.ok = true) (r : Reg) :
    s.readReg r = (true, d.value,
      ({ s with env := s.env.next ds, regs := s.regs.put d.value r } : State).log
        (.r (r.address s.cfg) d.value)) := by
  simp [State.readReg, h.1, h.answer, hok, h.env, State.putReg]

/-- A read that answers not ok. -/
theorem Answered.read_fail {s : State} {d : Draw} {ds : List Draw} (h : Answered s d ds)
    (hok : d.ok = false) (r : Reg) :
    s.readReg r = (false, d.value,
      ({ s with env := s.env.next ds } : State).log (.rFail (r.address s.cfg))) := by
  simp [State.readReg, h.1, h.answer, hok, h.env]

/-- The free oracle always answers: an answer exists in every state. -/
theorem answer_cases (s : State) : s.answer.ok = true ∨ s.answer.ok = false := by
  cases s.answer.ok <;> simp

/-! ### Any transaction -/

/-- Under the free oracle a read leaves the device and the command in flight alone. -/
theorem State.readReg_oracle {s : State} (h : s.env.mode = .oracle) (r : Reg) :
    (s.readReg r).2.2.dev = s.dev ∧ (s.readReg r).2.2.flight = s.flight ∧
      (s.readReg r).2.2.env.mode = .oracle := by
  unfold State.readReg
  rw [h]
  dsimp only
  split <;> simp [h]

/-- A write keeps the environment's kind. -/
@[simp] theorem State.writeReg_mode (r : Reg) (v : Word) (s : State) :
    (s.writeReg r v).2.env.mode = s.env.mode := by
  unfold State.writeReg State.landed State.lost State.trigger State.startBusy
  repeat' split
  all_goals simp_all

/-- A write that reaches a register other than the command register stores the value only. -/
theorem State.landed_plain {r : Reg} (h : r ≠ .cmd) (v : Word) (s : State) :
    s.landed r v = s.putReg r v := by
  cases r <;> first | contradiction | rfl

/-- A failed write to a register other than the command register stores a free value only (R81). -/
theorem State.lost_plain {r : Reg} (h : r ≠ .cmd) (v : Word) (s : State) :
    s.lost r v = s.putReg r (Config.freeWord s.env.draws) := by
  cases r <;> first | contradiction | rfl

/-- A write to a register other than the command register starts nothing. -/
theorem State.writeReg_flight {r : Reg} (h : r ≠ .cmd) (v : Word) (s : State) :
    (s.writeReg r v).2.flight = s.flight := by
  unfold State.writeReg
  rw [State.lost_plain h, State.landed_plain h, State.landed_plain h]
  split
  · split <;> rfl
  · rfl

/-! ### The device keeps the canonical form -/

/-- Every effect of a command keeps the flash array in its canonical form. -/
theorem Device.wf_apply {c : Cfg} {d : Device} (mode : EnvMode) (n : Nat) (i : Instr)
    (h : d.flash.wf c = true) : (d.apply c mode n i).flash.wf c = true := by
  have hl : (d.loseFlash n).flash.wf c = true := Memory.wf_lose c n
  have hu : (unaccepted mode (d.loseFlash n) d).flash.wf c = true := by
    cases mode <;> assumption
  have hs : ∀ a b, (d.writeStatus c mode n a b).flash.wf c = true := by
    intro a b
    unfold Device.writeStatus unaccepted
    split
    · split <;> exact h
    · cases mode <;> exact h
  cases i with
  | wren => exact h
  | se a =>
    simp only [Device.apply, Device.eraseSector]
    split
    · split
      · exact Memory.wf_eraseRange _ _ h
      · exact hl
    · exact hu
  | ce =>
    simp only [Device.apply, Device.eraseChip]
    split
    · exact Memory.wf_eraseAll c
    · exact hu
  | pp a p =>
    simp only [Device.apply, Device.program]
    split
    · split
      · exact Memory.wf_program p _ h
      · exact hl
    · exact hu
  | wrsr1 b => exact hs _ _
  | wrsr2 b => exact hs _ _
  | wrsr1w b0 b1 => exact hs _ _

/-- Completing the command in flight keeps the flash array in its canonical form. -/
theorem State.wf_complete {s : State} (h : s.dev.flash.wf s.cfg = true) :
    s.complete.dev.flash.wf s.cfg = true := by
  unfold State.complete
  split
  · exact Device.wf_apply _ _ _ h
  · exact Memory.wf_lose _ _
  · exact h
  · exact h

/-- A read keeps the flash array in its canonical form. -/
theorem State.wf_readReg {s : State} (r : Reg) (h : s.dev.flash.wf s.cfg = true) :
    (s.readReg r).2.2.dev.flash.wf s.cfg = true := by
  unfold State.readReg
  split
  · split <;> exact h
  · unfold State.tickBusy
    split
    · dsimp only
      split
      · exact State.wf_complete (s := { s with env := _ }) h
      · exact h
    · exact h

end Sys2Proof.Machine
end

