-- ==== Sys2Proof/Laws/Client.lean ====
section
/-! SUPPORT. What the host's register writes, its reads of the array, the beginning of a write and the
transfer step do. -/
namespace Sys2Proof.Machine

/-! ### Register writes of probe -/

/-- A write of probe that answers ok. -/
theorem Answered.poke_ok {s : State} {d : Draw} {ds : List Draw} (h : Answered s d ds) (hok : d.ok = true)
    {r : Reg} (hr : r ≠ .cmd) (w : Word) (on lost : Bool) :
    s.poke r w on lost = { s with
      regs := s.regs.put w r
      cacheOn := on
      env := s.env.next ds
      trace := s.trace ++ [.w (r.address s.cfg) w] } := by
  rw [State.poke, h.write_ok hok, State.landed_plain hr]
  rfl

/-- A write of probe that answers not ok ends the call and leaves a free value (R81). -/
theorem Answered.poke_fail {s : State} {d : Draw} {ds : List Draw} (h : Answered s d ds)
    (hok : d.ok = false) {r : Reg} (hr : r ≠ .cmd) (w : Word) (on lost : Bool) :
    s.poke r w on lost = { s with
      regs := s.regs.put (Config.freeWord s.env.draws) r
      cacheOn := lost
      env := s.env.next ds
      trace := s.trace ++ [.wFail (r.address s.cfg) w]
      host := { s.host with res := .transport, moves := [] } } := by
  rw [State.poke, h.write_fail hok, State.lost_plain hr]
  rfl

/-! ### Reading the array, allocating -/

/-- A read of the array that answers not ok ends the call (R83, R276). -/
theorem Answered.fringe_fail {s : State} {d : Draw} {ds : List Draw} (h : Answered s d ds)
    (hok : d.ok = false) (start len : Nat) :
    s.readFringe start len = { s with
      env := s.env.next ds
      host := { s.host with res := .transport, moves := [] } } := by
  simp [State.readFringe, State.hostOk, State.hostPop, h.1, h.answer, hok, h.env, State.hostReturn]

/-! ### Beginning a write, submitting at an offset -/

/-- A buffer of exactly `count` bytes is copied as it is (R276). -/
theorem beginWrite_exact {b : List Byte} {n : Nat} (h : b.length = n) (off : Nat) (s : State) :
    s.beginWrite b off n = s.plan (writeMoves s.cfg.erasePolicy s.sectorSize b off n) := by
  simp [State.beginWrite, h]

/-- Any other buffer stands for `count` free bytes (log 44). -/
theorem beginWrite_free {b : List Byte} {n : Nat} (h : b.length ≠ n) (off : Nat) (s : State) :
    s.beginWrite b off n =
      State.plan (writeMoves s.cfg.erasePolicy s.sectorSize
          ((List.range n).map (Config.freeCallerByte s.env.draws)) off n)
        { s with env := { s.env with draws := s.env.draws + 1 } } := by
  simp [State.beginWrite, h]

/-- What is submitted at an offset is the request with that operand, or the move that is refused. -/
theorem submitAt_cases (off : Nat) (r : Word → Request) :
    (off < 2 ^ 32 ∧ submitAt off r = .submit (r (BitVec.ofNat 32 off))) ∨
      (2 ^ 32 ≤ off ∧ submitAt off r = .unaddressable) := by
  by_cases h : off < 2 ^ 32
  · exact .inl ⟨h, if_pos h⟩
  · exact .inr ⟨by omega, if_neg h⟩

/-- The slow path alone (R278). -/
theorem transferStep_slow {s : State} (h : s.cfg.bulkFirst = false) (start : Nat) :
    transferStep start s = .next (s.slowPath start) := by
  simp [transferStep, h]

/-- Bulk first: the slow path where the allocation fails, else the bulk path, refused (R280). -/
theorem transferStep_bulk {s : State} (h : s.cfg.bulkFirst = true) {d : Draw} {ds : List Draw}
    (ht : s.env.tape = d :: ds) (start : Nat) :
    transferStep start s = if d.ok then .refused .bulkPath
      else .next (State.slowPath start { s with env := s.env.next ds }) := by
  simp [transferStep, h, State.answer, State.popAnswer, ht, Env.next]

end Sys2Proof.Machine
end

