-- ==== Sys2Proof/Laws/Encoder.lean ====
section
/-! SUPPORT. The bits of a command word (R104, R143), payload staging (R109), and the bits and lanes
they read back to. -/
namespace Sys2Proof

/-! ### The layout of a well-formed configuration -/

/-- What `WF_CFG` (a) says, as bounds and pairwise disjointness. -/
theorem Cfg.layout_of_wf {c : Cfg} (h : c.wf = true) :
    (c.actBit < 32 ∧ c.pollBit < 32 ∧ c.lengthLsb ≤ 24 ∧ c.cmdAddrBit < 32 ∧ c.cmdWrBit < 32 ∧
      c.cmdDataBit < 32 ∧ c.cmdIdLsb ≤ 24) ∧ c.fields.Pairwise BitField.disjoint := by
  simp only [Cfg.wf, Cfg.wfLayout, Bool.and_eq_true, decide_eq_true_eq] at h
  obtain ⟨⟨⟨⟨⟨⟨hb, hp⟩, -⟩, -⟩, -⟩, -⟩, -⟩ := h
  refine ⟨?_, hp⟩
  simp [Cfg.fields] at hb
  omega

/-! ### One bit and one byte in place -/

/-- The bits of a one-bit mask. -/
theorem getLsbD_bitMask (b : Bool) (i p : Nat) :
    (bitMask b i).getLsbD p = (b && decide (p = i) && decide (p < 32)) := by
  cases b with
  | false => simp [bitMask]
  | true =>
    by_cases hp : p < 32
    · by_cases h : p = i
      · subst h; simp [bitMask, hp]
      · have hi : p < i ∨ p - i ≠ 0 := by omega
        rcases hi with hi | hi <;> simp [bitMask, hp, h, hi]
    · simp [bitMask, hp]

/-- The bits of a byte shifted into place. -/
theorem getLsbD_field (v : Byte) (lsb p : Nat) :
    ((v.setWidth 32 : Word) <<< lsb).getLsbD p =
      (decide (p < 32) && decide (lsb ≤ p) && v.getLsbD (p - lsb)) := by
  by_cases hp : p < 32
  · by_cases hl : lsb ≤ p
    · simp [hp, hl, Nat.not_lt.mpr hl]
    · simp [hp, hl, Nat.lt_of_not_le hl]
  · simp [hp]

/-- The bits of a byte read out of a word. -/
theorem getLsbD_byteAt (w : Word) (lsb i : Nat) :
    (byteAt w lsb).getLsbD i = (decide (i < 8) && w.getLsbD (lsb + i)) := by
  simp [byteAt, BitVec.getLsbD_extractLsb']

/-- Reading a byte out of an or. -/
theorem byteAt_or (u w : Word) (lsb : Nat) : byteAt (u ||| w) lsb = byteAt u lsb ||| byteAt w lsb := by
  apply BitVec.eq_of_getLsbD_eq
  intro i hi
  rw [getLsbD_byteAt, BitVec.getLsbD_or, BitVec.getLsbD_or, getLsbD_byteAt, getLsbD_byteAt]
  cases decide (i < 8) <;> simp

/-- A byte in place reads back. -/
theorem byteAt_field_same (v : Byte) {lsb : Nat} (h : lsb ≤ 24) :
    byteAt ((v.setWidth 32 : Word) <<< lsb) lsb = v := by
  apply BitVec.eq_of_getLsbD_eq
  intro i hi
  have h32 : lsb + i < 32 := by omega
  simp only [getLsbD_byteAt, getLsbD_field, hi, h32, Nat.le_add_right, Nat.add_sub_cancel_left,
    decide_true, Bool.true_and]

/-- A byte in place leaves every disjoint byte zero. -/
theorem byteAt_field_disjoint (v : Byte) {lsb l : Nat} (h : lsb + 8 ≤ l ∨ l + 8 ≤ lsb) :
    byteAt ((v.setWidth 32 : Word) <<< lsb) l = 0#8 := by
  apply BitVec.eq_of_getLsbD_eq
  intro i hi
  rw [getLsbD_byteAt, getLsbD_field, BitVec.getLsbD_zero]
  rcases h with h | h
  · rw [BitVec.getLsbD_of_ge v _ (by omega)]; simp
  · simp; omega

/-- A bit in place leaves every byte beside it zero. -/
theorem byteAt_bitMask (b : Bool) {i l : Nat} (h : i + 1 ≤ l ∨ l + 8 ≤ i) :
    byteAt (bitMask b i) l = 0#8 := by
  apply BitVec.eq_of_getLsbD_eq
  intro j hj
  rw [getLsbD_byteAt, getLsbD_bitMask, BitVec.getLsbD_zero]
  have : ¬ (l + j = i) := by omega
  simp [this]

/-- A byte in place leaves every bit beside it clear. -/
theorem getLsbD_field_disjoint (v : Byte) {lsb p : Nat} (h : lsb + 8 ≤ p ∨ p + 1 ≤ lsb) :
    ((v.setWidth 32 : Word) <<< lsb).getLsbD p = false := by
  rw [getLsbD_field]
  rcases h with h | h
  · rw [BitVec.getLsbD_of_ge v _ (by omega)]; simp
  · simp; omega

/-- A bit in place leaves every other bit clear. -/
theorem getLsbD_bitMask_disjoint (b : Bool) {i p : Nat} (h : i + 1 ≤ p ∨ p + 1 ≤ i) :
    (bitMask b i).getLsbD p = false := by
  have : ¬ (p = i) := by omega
  simp [getLsbD_bitMask, this]

/-- A bit in place reads back. -/
theorem getLsbD_bitMask_same (b : Bool) {i : Nat} (h : i < 32) : (bitMask b i).getLsbD i = b := by
  rw [getLsbD_bitMask]; simp [h]

/-! ### LENGTH -/

/-- The byte LENGTH holds for a byte count (R105, R106). -/
def lengthByte (n : Nat) : Byte := if 1 ≤ n then BitVec.ofNat 8 (n - 1) else 0#8

/-- For a byte count in the encoder's domain the LENGTH bits are those of one byte in place (R105). -/
theorem lengthField_eq (c : Cfg) {n : Nat} (hn : n ≤ bufBytes) :
    lengthField c n = (lengthByte n).setWidth 32 <<< c.lengthLsb := by
  unfold lengthField lengthByte
  split
  · congr 1
    apply BitVec.eq_of_toNat_eq
    have : n - 1 < 256 := by have : n ≤ 256 := hn; omega
    simp; omega
  · simp

/-- LENGTH holds `n - 1` exactly: no truncation (R105). -/
theorem lengthByte_toNat {n : Nat} (h1 : 1 ≤ n) (hn : n ≤ bufBytes) : (lengthByte n).toNat = n - 1 := by
  have : n - 1 < 256 := by have : n ≤ 256 := hn; omega
  simp [lengthByte, h1]; omega

/-! ### Staging -/

/-- One staged word by lanes: byte `4k + j` is lane `j` (R63, R109). -/
theorem byteAt_stageWord (p : List Byte) (k : Nat) {j : Nat} (hj : j < 4) :
    byteAt (stageWord p k) (8 * j) = payloadByte p (4 * k + j) := by
  have h0 : ((payloadByte p (4 * k)).setWidth 32 : Word) = (payloadByte p (4 * k)).setWidth 32 <<< 0 := by
    simp
  have hcase : j = 0 ∨ j = 1 ∨ j = 2 ∨ j = 3 := by omega
  rw [stageWord, h0]
  simp only [byteAt_or]
  rcases hcase with rfl | rfl | rfl | rfl
  · rw [byteAt_field_same _ (by omega), byteAt_field_disjoint _ (by omega),
      byteAt_field_disjoint _ (by omega), byteAt_field_disjoint _ (by omega)]
    simp
  · rw [byteAt_field_disjoint _ (by omega), byteAt_field_same _ (by omega),
      byteAt_field_disjoint _ (by omega), byteAt_field_disjoint _ (by omega)]
    simp
  · rw [byteAt_field_disjoint _ (by omega), byteAt_field_disjoint _ (by omega),
      byteAt_field_same _ (by omega), byteAt_field_disjoint _ (by omega)]
    simp
  · rw [byteAt_field_disjoint _ (by omega), byteAt_field_disjoint _ (by omega),
      byteAt_field_disjoint _ (by omega), byteAt_field_same _ (by omega)]
    simp

/-- The number of staged words (R109). -/
@[simp] theorem length_stageWords (p : List Byte) : (stageWords p).length = divUp p.length 4 := by
  simp [stageWords]

/-- Word `k` of the staging (R109). -/
theorem getElem?_stageWords {p : List Byte} {k : Nat} (h : k < divUp p.length 4) :
    (stageWords p)[k]? = some (stageWord p k) := by
  simp [stageWords, h]

/-- There is no further staged word. -/
theorem getElem?_stageWords_none {p : List Byte} {k : Nat} (h : divUp p.length 4 ≤ k) :
    (stageWords p)[k]? = none := by
  simp [stageWords, h]

/-- A payload that fits the buffer takes at most 64 words. -/
theorem divUp_le_bufWords {n : Nat} (h : n ≤ bufBytes) : divUp n 4 ≤ bufWords := by
  have : n ≤ 256 := h
  simp only [divUp, bufWords]; omega

/-- The words of a staging cover every byte. -/
theorem div_lt_divUp {n i : Nat} (h : i < n) : i / 4 < divUp n 4 := by
  simp only [divUp]; omega

/-- A non-empty payload stages a word. -/
theorem divUp_pos {n : Nat} : 0 < divUp n 4 ↔ 0 < n := by
  simp only [divUp]; omega

/-- Reading a byte back from words that agree with a staging on it. -/
theorem laneOf_eq {ws : List Word} {p : List Byte} {i : Nat} (hi : i < p.length)
    (h : ws[i / 4]? = some (stageWord p (i / 4))) : laneOf ws i = p[i] := by
  have h4 : 4 * (i / 4) + i % 4 = i := by omega
  rw [laneOf, h, Option.getD_some, byteAt_stageWord _ _ (Nat.mod_lt _ (by decide)), h4]
  simp [payloadByte, hi]

/-- Reading a payload back from words that begin with its staging (R63). -/
theorem unstage_eq {ws : List Word} {p : List Byte}
    (h : ∀ k < divUp p.length 4, ws[k]? = some (stageWord p k)) : unstage ws p.length = p := by
  apply List.ext_getElem (by simp [unstage])
  intro i h1 h2
  simp only [unstage, List.getElem_map, List.getElem_range]
  exact laneOf_eq h2 (h _ (div_lt_divUp h2))

/-- Staging reads back (R109, R143 (d)). -/
theorem unstage_stageWords (p : List Byte) : unstage (stageWords p) p.length = p :=
  unstage_eq fun _ h => getElem?_stageWords h

end Sys2Proof
end

