-- ==== Sys2Proof/Laws/PerInstr.lean ====
section
/-! SUPPORT. The statements made per instruction: the shape of the register writes its encoding is. -/
namespace Sys2Proof.Laws

open Sys2Proof

/-- The encoding of an instruction (R187, R193): its last write, and only that one, is the command word
to the command register; before it stand one address write where the row has an address, and one buffer
write per four payload bytes. -/
def EncodeShape.Statement (i : Instr) : Prop :=
  ∀ c : Cfg,
    (encode c i).getLast? = some (c.aCmd, encIns c (i.ins c)) ∧
    (encode c i).length = (if (i.ins c).hasAddr then 1 else 0) + divUp i.payload.length 4 + 1 ∧
    (encode c i).dropLast =
      (if (i.ins c).hasAddr then [(c.aAddr, i.address)] else []) ++ stage c i.payload

/-- The shape of a descriptor's writes; each instruction's lemma is a case of it. -/
theorem encode_shape (i : Instr) : EncodeShape.Statement i := by
  intro c
  refine ⟨by simp [encode, insWrites], ?_, by simp [encode, insWrites, Instr.ins]⟩
  unfold encode insWrites
  split <;> simp [stage, Instr.ins]
  omega

namespace EncodeShape

theorem wren : Statement .wren := encode_shape _
theorem se (a : Word) : Statement (.se a) := encode_shape _
theorem ce : Statement .ce := encode_shape _
theorem pp (a : Word) (p : List Byte) : Statement (.pp a p) := encode_shape _
theorem wrsr1 (b : Byte) : Statement (.wrsr1 b) := encode_shape _
theorem wrsr2 (b : Byte) : Statement (.wrsr2 b) := encode_shape _
theorem wrsr1w (b0 b1 : Byte) : Statement (.wrsr1w b0 b1) := encode_shape _

end EncodeShape

end Sys2Proof.Laws
end

