-- ==== Sys2Proof/Laws/Steps.lean ====
section
/-! SUPPORT. What each step can do, said once: the registers a transaction can change, one inversion
lemma for each phase of an instruction, for the end of an instruction, and for the step of the machine. -/
namespace Sys2Proof.Machine

/-! ### The registers a transaction can change -/

/-- A write to a register other than the command register changes that register only. -/
theorem writeReg_regs_plain {r : Reg} (h : r ≠ .cmd) (v : Word) (s : State) :
    ∃ u, (s.writeReg r v).2.regs = s.regs.put u r := by
  unfold State.writeReg
  rw [State.lost_plain h, State.landed_plain h, State.landed_plain h]
  split
  · split <;> exact ⟨_, rfl⟩
  · exact ⟨_, rfl⟩

/-- Triggering changes the status register at most. -/
theorem trigger_regs (w : Word) (s : State) : ∃ b, (s.trigger w).regs = { s.regs with status := b } := by
  unfold State.trigger State.startBusy
  split
  · split
    · exact ⟨s.regs.status, rfl⟩
    · dsimp only
      cases s.env.mode
      · exact ⟨s.regs.status, rfl⟩
      · exact ⟨_, rfl⟩
  · exact ⟨s.regs.status, rfl⟩

/-- A write to the command register changes it and the status register at most. -/
theorem writeReg_regs_cmd (v : Word) (s : State) :
    ∃ a b, (s.writeReg .cmd v).2.regs = { s.regs with cmd := a, status := b } := by
  unfold State.writeReg
  split
  · split
    · obtain ⟨b, hb⟩ := trigger_regs v (s.popAnswer.putReg .cmd v)
      exact ⟨v, b, by simp only [State.log_regs, State.landed, hb]; rfl⟩
    · exact ⟨_, s.regs.status, rfl⟩
  · obtain ⟨b, hb⟩ := trigger_regs v (s.putReg .cmd v)
    exact ⟨v, b, by simp only [State.log_regs, State.landed, hb]; rfl⟩

/-- A read changes the register read, or, in the reference environment, the two that show completion. -/
theorem readReg_regs (r : Reg) (s : State) :
    (s.readReg r).2.2.regs = s.regs ∨ (∃ v, (s.readReg r).2.2.regs = s.regs.put v r) ∨
      (s.env.mode = .reference ∧ ∃ a b, (s.readReg r).2.2.regs = { s.regs with cmd := a, status := b }) := by
  unfold State.readReg
  split
  · split
    · exact .inr (.inl ⟨_, rfl⟩)
    · exact .inl rfl
  · rename_i hm
    refine .inr (.inr ⟨hm, ?_⟩)
    simp only [State.log_regs]
    unfold State.tickBusy
    split
    · dsimp only
      split
      · exact ⟨_, _, rfl⟩
      · exact ⟨s.regs.cmd, s.regs.status, rfl⟩
    · exact ⟨s.regs.cmd, s.regs.status, rfl⟩

/-! ### The phases of an instruction -/

/-- A step of an instruction is that of the phase the machine is in. -/
theorem exec_cases {i : Instr} {s t : State} (h : exec i s = .next t) :
    (s.ph = .addr ∧ (i.ins s.cfg).hasAddr = true ∧ t = s.addrStep (i.ins s.cfg)) ∨
    (s.ph = .buf ∧ s.k < divUp i.payload.length 4 ∧
      t = s.bufStep (i.ins s.cfg) (stageWord i.payload s.k)) ∨
    (s.ph = .issue ∧ s.flight = .clear ∧ t = s.issueStep (i.ins s.cfg)) ∨
    (s.ph = .wait ∧ t = s.waitStep (i.ins s.cfg).pk (i.ins s.cfg).timeout) := by
  rw [exec_eq, runPhase] at h
  split at h
  · split at h <;> cases h
    exact .inl ⟨‹_›, ‹_›, rfl⟩
  · by_cases hk : s.k < divUp i.payload.length 4
    · have hw : (stageWords (i.ins s.cfg).payload)[s.k]? = some (stageWord i.payload s.k) :=
        getElem?_stageWords hk
      rw [hw] at h
      cases h
      exact .inr (.inl ⟨‹_›, hk, rfl⟩)
    · have hw : (stageWords (i.ins s.cfg).payload)[s.k]? = none :=
        getElem?_stageWords_none (Nat.le_of_not_lt hk)
      rw [hw] at h
      cases h
  · split at h <;> cases h
    exact .inr (.inr (.inl ⟨‹_›, ‹_›, rfl⟩))
  · cases h
    exact .inr (.inr (.inr ⟨‹_›, rfl⟩))
  all_goals cases h

/-- In WAIT an instruction's step is the wait's. -/
theorem exec_wait {i : Instr} {s : State} (hp : s.ph = .wait) :
    exec i s = .next (s.waitStep (i.ins s.cfg).pk (i.ins s.cfg).timeout) := by
  rw [exec_eq, runPhase, hp]

/-- Phase ADDR (R182). -/
theorem addrStep_cases (d : Ins) (s : State) :
    (∃ s1, s.writeReg .addr d.addr = (false, s1) ∧ s.addrStep d = s1.raise .transport) ∨
    (∃ s1, s.writeReg .addr d.addr = (true, s1) ∧
      ((d.payload ≠ [] ∧ s.addrStep d = { s1 with ph := .buf, k := 0 }) ∨
        (d.payload = [] ∧ s.addrStep d = { s1 with ph := .issue }))) := by
  unfold State.addrStep
  rcases h : s.writeReg .addr d.addr with ⟨b, s1⟩
  cases b
  · exact .inl ⟨s1, rfl, rfl⟩
  · refine .inr ⟨s1, rfl, ?_⟩
    by_cases hp : d.payload = [] <;> simp [hp]

/-- Phase BUF (R183). -/
theorem bufStep_cases (d : Ins) (w : Word) (s : State) :
    (∃ s1, s.writeReg (.buf s.k) w = (false, s1) ∧ s.bufStep d w = s1.raise .transport) ∨
    (∃ s1, s.writeReg (.buf s.k) w = (true, s1) ∧
      ((s.k + 1 = divUp d.payload.length 4 ∧ s.bufStep d w = { s1 with k := s.k + 1, ph := .issue }) ∨
        (s.k + 1 ≠ divUp d.payload.length 4 ∧ s.bufStep d w = { s1 with k := s.k + 1 }))) := by
  unfold State.bufStep
  rcases h : s.writeReg (.buf s.k) w with ⟨b, s1⟩
  cases b
  · exact .inl ⟨s1, rfl, rfl⟩
  · refine .inr ⟨s1, rfl, ?_⟩
    by_cases hp : s.k + 1 = divUp d.payload.length 4 <;> simp [hp]

/-- Phase ISSUE (R184). -/
theorem issueStep_cases (d : Ins) (s : State) :
    (∃ s1, s.writeReg .cmd (encIns s.cfg d) = (false, s1) ∧ s.issueStep d = s1.raise .transport) ∨
    (∃ s1, s.writeReg .cmd (encIns s.cfg d) = (true, s1) ∧
      s.issueStep d = { s1 with cnt := 0, ph := .wait }) := by
  unfold State.issueStep
  rcases h : s.writeReg .cmd (encIns s.cfg d) with ⟨b, s1⟩
  cases b
  · exact .inl ⟨s1, rfl, rfl⟩
  · exact .inr ⟨s1, rfl, rfl⟩

/-- Phase WAIT (R164). -/
theorem waitStep_cases (pk : Signal) (n : Nat) (s : State) :
    (s.cnt = n ∧ s.waitStep pk n = s.raise .busy) ∨
    (s.cnt ≠ n ∧ ∃ v s1, s.readReg (pollReg pk) = (false, v, s1) ∧
      s.waitStep pk n = s1.raise .transport) ∨
    (s.cnt ≠ n ∧ ∃ v s1, s.readReg (pollReg pk) = (true, v, s1) ∧
      ((pending s.cfg pk v = true ∧ s.waitStep pk n = s1.pollAgain pk) ∨
        (pending s.cfg pk v = false ∧ s.waitStep pk n = s1.finishHead))) := by
  unfold State.waitStep
  by_cases hc : s.cnt = n
  · exact .inl ⟨hc, by simp [hc]⟩
  · rcases h : s.readReg (pollReg pk) with ⟨b, v, s1⟩
    cases b
    · exact .inr (.inl ⟨hc, v, s1, rfl, by simp [hc]⟩)
    · refine .inr (.inr ⟨hc, v, s1, rfl, ?_⟩)
      by_cases hp : pending s.cfg pk v = true <;> simp [hc, hp]

/-! ### The end of an instruction -/

/-- The queue loses its head. -/
theorem finishHead_q (s : State) : s.finishHead.q = s.q.tail := by
  unfold State.finishHead
  dsimp only
  split <;> simp_all

/-- The device is as after the command's completion. -/
theorem finishHead_dev (s : State) : s.finishHead.dev = s.complete.dev := by
  unfold State.finishHead
  dsimp only
  split <;> simp [State.succeed]

/-- The command in flight is as after its completion. -/
theorem finishHead_flight (s : State) : s.finishHead.flight = s.complete.flight := by
  unfold State.finishHead
  dsimp only
  split <;> simp [State.succeed]

/-- After completion no command is in flight, unless it was never known whether one was. -/
theorem complete_flight {s : State} (h : ∀ w, s.flight ≠ .doubtful w) : s.complete.flight = .clear := by
  unfold State.complete
  cases hf : s.flight with
  | clear => simp [hf]
  | running i => rfl
  | foreign w => rfl
  | doubtful w => exact absurd hf (h w)

/-- Beginning a queue that is not empty leads to a phase of the engine. -/
theorem begin_ph_cases {s : State} (hq : s.q ≠ []) :
    s.begin.ph = .addr ∨ s.begin.ph = .buf ∨ s.begin.ph = .issue ∨ s.begin.ph = .mfr ∨
      (s.begin.ph = .wait ∧ ∃ pk n es, s.q = .poll pk n :: es) := by
  unfold State.begin
  cases h : s.q with
  | nil => exact absurd h hq
  | cons e es =>
    cases e with
    | ins i => dsimp only; (repeat' split) <;> simp
    | mfr => simp
    | poll pk n => simp
    | illegal w => simp

/-! ### Sector flags -/

/-- Marking changes no `protected` flag. -/
theorem prot_markFrom (t : Option (Nat × Nat)) (v : Tri) :
    ∀ (i : Nat) (l : List Sector), (markFrom t v i l).map Sector.prot = l.map Sector.prot
  | _, [] => rfl
  | i, x :: xs => by
    simp only [markFrom, List.map_cons, prot_markFrom t v (i + 1) xs]
    split <;> rfl

/-- Marking keeps the number of sectors. -/
theorem length_markFrom (t : Option (Nat × Nat)) (v : Tri) :
    ∀ (i : Nat) (l : List Sector), (markFrom t v i l).length = l.length
  | _, [] => rfl
  | i, x :: xs => by simp [markFrom, length_markFrom t v (i + 1) xs]

/-- The `erased` flag of a sector after marking. -/
theorem erased_markFrom (t : Option (Nat × Nat)) (v : Tri) : ∀ (i n : Nat) (l : List Sector),
    ((markFrom t v i l)[n]?).map Sector.erased =
      if targeted t (i + n) = true ∧ n < l.length then some v else (l[n]?).map Sector.erased
  | i, n, [] => by simp [markFrom]
  | i, 0, x :: xs => by
    simp only [markFrom]
    by_cases h : targeted t i = true <;> simp [h]
  | i, n + 1, x :: xs => by
    have hi : i + 1 + n = i + (n + 1) := by omega
    simp only [markFrom]
    rw [List.getElem?_cons_succ, erased_markFrom t v (i + 1) n xs, hi]
    simp

/-- The end of an operation changes no `protected` flag. -/
theorem prot_sectorsAfter (s : State) (r : Res) :
    (s.sectorsAfter r).map Sector.prot = s.sectors.map Sector.prot := by
  unfold State.sectorsAfter
  cases r <;> simp [prot_markFrom]

/-- The end of an operation keeps the number of sectors. -/
theorem length_sectorsAfter (s : State) (r : Res) : (s.sectorsAfter r).length = s.sectors.length := by
  unfold State.sectorsAfter
  cases r <;> simp [length_markFrom]

/-! ### The step of the machine -/

/-- A step is a move of the host, a collection, the manufacturer step, a step of the instruction at the
head of the queue, or a bare poll. -/
theorem step_cases {s t : State} (h : step s = .next t) :
    (s.ph = .idle ∧ hostStep s = .next t) ∨ (s.ph = .done ∧ t = s.collect) ∨
    (s.ph = .mfr ∧ (∃ es, s.q = .mfr :: es) ∧ continuation s.req .generic ≠ [] ∧ t = s.mfrRead) ∨
    (∃ i es, s.q = .ins i :: es ∧ exec i s = .next t) ∨
    (∃ pk n es, s.q = .poll pk n :: es ∧ s.ph = .wait ∧ t = s.waitStep pk n) := by
  have key : ∀ p, s.ph = p → p = .addr ∨ p = .buf ∨ p = .issue ∨ p = .wait →
      (∃ i es, s.q = .ins i :: es ∧ exec i s = .next t) ∨
        (∃ pk n es, s.q = .poll pk n :: es ∧ s.ph = .wait ∧ t = s.waitStep pk n) := by
    intro p hp hh
    cases hq : s.q with
    | nil => rcases hh with rfl | rfl | rfl | rfl <;> simp [step, fetch, hp, hq] at h
    | cons e es =>
      cases e with
      | ins i =>
        refine .inl ⟨i, es, rfl, ?_⟩
        rcases hh with rfl | rfl | rfl | rfl <;> simpa [step, fetch, hp, hq] using h
      | mfr => rcases hh with rfl | rfl | rfl | rfl <;> simp [step, fetch, hp, hq] at h
      | illegal w => rcases hh with rfl | rfl | rfl | rfl <;> simp [step, fetch, hp, hq] at h
      | poll pk n =>
        rcases hh with rfl | rfl | rfl | rfl <;> simp [step, fetch, hp, hq] at h
        exact .inr ⟨pk, n, es, rfl, hp, h.symm⟩
  cases hp : s.ph with
  | idle => exact .inl ⟨rfl, by simpa [step, fetch, hp] using h⟩
  | done => exact .inr (.inl ⟨rfl, by simpa [step, fetch, hp] using h.symm⟩)
  | mfr =>
    refine .inr (.inr (.inl ⟨rfl, ?_⟩))
    cases hq : s.q with
    | nil => simp [step, fetch, hp, hq] at h
    | cons e es =>
      cases e <;> simp [step, fetch, hp, hq] at h
      unfold mfrStep at h
      cases hc : continuation s.req .generic with
      | nil => rw [hc] at h; cases h
      | cons x xs => rw [hc] at h; cases h; exact ⟨⟨es, rfl⟩, by simp, rfl⟩
  | addr => have := key _ hp (by simp); rw [hp] at this; exact .inr (.inr (.inr this))
  | buf => have := key _ hp (by simp); rw [hp] at this; exact .inr (.inr (.inr this))
  | issue => have := key _ hp (by simp); rw [hp] at this; exact .inr (.inr (.inr this))
  | wait => have := key _ hp (by simp); rw [hp] at this; exact .inr (.inr (.inr this))

/-- A step of the host is a move of the call in progress, the beginning of the next call, or nothing. -/
theorem hostStep_cases {s t : State} (h : hostStep s = .next t) :
    (∃ m ms, s.host.moves = m :: ms ∧ hostMove m { s with host := { s.host with moves := ms } } = .next t) ∨
    (∃ c cs, s.host.moves = [] ∧ s.host.inbox = c :: cs ∧
      beginCall c { s with host := { s.host with inbox := cs } } = .next t) ∨
    (s.host.moves = [] ∧ s.host.inbox = [] ∧ t = s) := by
  unfold hostStep at h
  cases hm : s.host.moves with
  | cons m ms => rw [hm] at h; exact .inl ⟨m, ms, rfl, h⟩
  | nil =>
    rw [hm] at h
    cases hi : s.host.inbox with
    | nil => rw [hi] at h; cases h; exact .inr (.inr ⟨rfl, rfl, rfl⟩)
    | cons c cs => rw [hi] at h; exact .inr (.inl ⟨c, cs, rfl, rfl, h⟩)

/-- Whichever way the host submits a request, the step is its acceptance (R180, R188). -/
theorem Submitting.step_eq {r : Request} {s : State} (h : Submitting r s) :
    step s = accept r { s with host := s.hostAfter } := by
  obtain ⟨hp, ⟨ms, hm⟩ | ⟨hm, cs, hi⟩ | ⟨hm, rfl, cs, hi⟩⟩ := h <;>
    simp [step, fetch, hostStep, hostMove, beginCall, State.hostAfter, *]

end Sys2Proof.Machine
end

