-- ==== Sys2Proof/Tests/Slice0.lean ====
section
/-! SUPPORT. The model's own tests: the well-formedness checks refuse an ill-formed term each, words
written out bit by bit, the vectors of 95_test_vectors.md by their numbers, one step of each instruction,
and for every obligation with hypotheses a state and operands that meet them (theorems `hyps_…`). -/
namespace Sys2Proof.Tests

open Sys2Proof Sys2Proof.Machine

/-! ### Well-formedness: each check refuses an ill-formed term -/

theorem test_reference_configuration_wf : cfgRef.wf = true := by decide
/-- R8 (a): POLL on ACT's bit; a byte field past bit 31. -/
theorem test_wf_refuses_overlapping_fields : ({ cfgRef with pollBit := 31 } : Cfg).wf = false := by decide
theorem test_wf_refuses_field_past_bit_31 : ({ cfgRef with lengthLsb := 25 } : Cfg).wfLayout = false := by
  decide
/-- R8 (b): two registers at one address; an address inside the buffer; not a multiple of 4; a buffer past
the address space. -/
theorem test_wf_refuses_shared_address : ({ cfgRef with aAddr := 0#32 } : Cfg).wf = false := by decide
theorem test_wf_refuses_register_in_buffer : ({ cfgRef with aId := 0x1FC#32 } : Cfg).wfAddresses = false := by
  decide
theorem test_wf_refuses_odd_address : ({ cfgRef with aId := 0x16#32 } : Cfg).wfAddresses = false := by decide
theorem test_wf_refuses_buffer_past_space :
    ({ cfgRef with aBuf0 := 0xFFFFFF04#32 } : Cfg).wfAddresses = false := by decide
/-- R8 (c): no register at `A_MFR`; the byte past bit 31. -/
theorem test_wf_refuses_mfr_nowhere : ({ cfgRef with aMfr := 0x18#32 } : Cfg).wf = false := by decide
theorem test_wf_refuses_mfr_byte_past_word : ({ cfgRef with mfrLsb := 25 } : Cfg).wfMfr = false := by decide
/-- R8 (d): two commands of one id. -/
theorem test_wf_refuses_shared_id : ({ cfgRef with idCe := 0x20#8 } : Cfg).wf = false := by decide
/-- R8 (e): a flash size that is no multiple of the sector size; no sector size. -/
theorem test_wf_refuses_ragged_flash : ({ cfgRef with flashSize := 4097 } : Cfg).wf = false := by decide
theorem test_wf_refuses_sector_size_0 : ({ cfgRef with sectorSize := 0 } : Cfg).wfGeometry = false := by
  decide
/-- R8 (f): a program chunk of 0, and one beyond the buffer. -/
theorem test_wf_refuses_chunk_0 : ({ cfgRef with progChunk := 0 } : Cfg).wf = false := by decide
theorem test_wf_refuses_chunk_257 : ({ cfgRef with progChunk := 257 } : Cfg).wf = false := by decide
/-- R116: 256 bytes fit, 257 do not. -/
theorem test_wf_payload_256 : (Instr.pp 0#32 (List.replicate 256 0#8)).wf = true := by
  simp only [Instr.wf, List.length_replicate]; decide
theorem test_wf_refuses_payload_257 : (Instr.pp 0#32 (List.replicate 257 0#8)).wf = false := by
  simp only [Instr.wf, List.length_replicate]; decide
theorem test_wf_refuses_encode_257 : (Request.encode 2#8 true true true true 257).wf = false := by decide
theorem test_wf_refuses_stage_257 : (Request.stage (List.replicate 257 0#8)).wf = false := by
  simp only [Request.wf, List.length_replicate]; decide
theorem test_wf_refuses_single_257 :
    (Request.single (.pp 0#32 (List.replicate 257 0#8))).wf = false := by
  simp only [Request.wf, Instr.wf, List.length_replicate]; decide

/-! ### Words written out from the layout of R9: ACT 31, POLL 30, LENGTH 23..16, CMDADDR 10, CMDWR 9,
CMDDATA 8, CMDID 7..0 -/

theorem test_word_wren :
    decodeWord cfgRef 0b1_1_000000_00000000_00000_0_0_0_00000110#32 = some .wren := by decide
theorem test_word_se :
    decodeWord cfgRef 0b1_1_000000_00000000_00000_1_0_0_00100000#32 = some (.se 0#32) := by decide
theorem test_word_ce :
    decodeWord cfgRef 0b1_1_000000_00000000_00000_0_0_0_11000111#32 = some .ce := by decide
theorem test_word_pp :
    decodeWord cfgRef 0b1_1_000000_00000001_00000_1_1_1_00000010#32 = some (.pp 0#32 [0#8, 0#8]) := by decide
theorem test_word_wrsr1 :
    decodeWord cfgRef 0b1_1_000000_00000000_00000_0_1_1_00000001#32 = some (.wrsr1 0#8) := by decide
theorem test_word_wrsr2 :
    decodeWord cfgRef 0b1_1_000000_00000000_00000_0_1_1_00110001#32 = some (.wrsr2 0#8) := by decide
theorem test_word_wrsr1w :
    decodeWord cfgRef 0b1_1_000000_00000001_00000_0_1_1_00000001#32 = some (.wrsr1w 0#8 0#8) := by decide

/-- Operands that are not zero, from the writes V4.4, V6.1 and V5.2 list. -/
theorem test_decode_se_operand :
    decode cfgRef [(0x04#32, 0x1000#32), (0x00#32, 0xC0000420#32)] = .ok (.se 0x1000#32) := by decide
theorem test_decode_pp_operands :
    decode cfgRef [(0x04#32, 0x10#32), (0x100#32, 0x44332211#32), (0x104#32, 0x55#32),
      (0x00#32, 0xC0040702#32)] = .ok (.pp 0x10#32 [0x11#8, 0x22#8, 0x33#8, 0x44#8, 0x55#8]) := by decide
theorem test_decode_wrsr1w_operands :
    decode cfgRef [(0x100#32, 0x200#32), (0x00#32, 0xC0010301#32)] = .ok (.wrsr1w 0x00#8 0x02#8) := by decide
theorem test_decode_wrsr1_operand :
    decode cfgRef [(0x100#32, 0xA5#32), (0x00#32, 0xC0000301#32)] = .ok (.wrsr1 0xA5#8) := by decide
theorem test_decode_wrsr2_operand :
    decode cfgRef [(0x100#32, 0x02#32), (0x00#32, 0xC0000331#32)] = .ok (.wrsr2 0x02#8) := by decide
/-- V1.4: a program of no bytes stages nothing. -/
theorem test_decode_pp_no_bytes :
    decode cfgRef [(0x04#32, 0x200#32), (0x00#32, 0xC0000702#32)] = .ok (.pp 0x200#32 []) := by decide

/-- What the decoder refuses, by name (R73, R109, R111, R115). -/
theorem test_decode_refusals :
    decode cfgRef [] = .error .empty ∧
    decode cfgRef [(0x00#32, 0xC0000006#32), (0x04#32, 0#32)] = .error .noCommandWrite ∧
    decode cfgRef [(0x00#32, 0x40000006#32)] = .error .actClear ∧
    decode cfgRef [(0x00#32, 0xE0000006#32)] = .error .unnamedBit ∧
    decode cfgRef [(0x00#32, 0xC0000001#32)] = .error .notOfThisBlock ∧
    decode cfgRef [(0x00#32, 0xC0020301#32)] = .error .notOfThisBlock ∧
    decode cfgRef [(0x00#32, 0xC0000420#32)] = .error .noAddressWrite ∧
    decode cfgRef [(0x104#32, 0x02#32), (0x00#32, 0xC0000331#32)] = .error .badBufferWrite ∧
    decode cfgRef [(0x100#32, 0x102#32), (0x00#32, 0xC0000331#32)] = .error .badStaging := by decide

/-! ### V1: the encoder -/

theorem test_V1_reference_words :
    enc cfgRef 0x06 false false false true 0 = 0xC0000006#32 ∧
    enc cfgRef 0x20 true false false true 0 = 0xC0000420#32 ∧
    enc cfgRef 0xC7 false false false true 0 = 0xC00000C7#32 ∧
    enc cfgRef 0x02 true true true true 0 = 0xC0000702#32 ∧
    enc cfgRef 0x02 true true true true 1 = 0xC0000702#32 ∧
    enc cfgRef 0x02 true true true true 2 = 0xC0010702#32 ∧
    enc cfgRef 0x02 true true true true 5 = 0xC0040702#32 ∧
    enc cfgRef 0x02 true true true true 256 = 0xC0FF0702#32 ∧
    enc cfgRef 0x01 false true true true 1 = 0xC0000301#32 ∧
    enc cfgRef 0x31 false true true true 1 = 0xC0000331#32 ∧
    enc cfgRef 0x01 false true true true 2 = 0xC0010301#32 ∧
    enc cfgRef 0x06 false false false false 0 = 0x80000006#32 ∧
    enc cfgRef 0x20 true true false true 0 = 0xC0000620#32 ∧
    enc cfgRef 0x00 false false false false 0 = 0x80000000#32 ∧
    enc cfgRef 0xFF true true true true 256 = 0xC0FF07FF#32 := by decide

/-- `CFG_ALT` of V1.17 to V1.21. -/
def cfgAlt : Cfg :=
  { cfgRef with
    actBit := 0, pollBit := 1, lengthLsb := 8, cmdAddrBit := 16, cmdWrBit := 17, cmdDataBit := 18
    cmdIdLsb := 24 }

theorem test_V1_other_layout :
    cfgAlt.wf = true ∧
    encIns cfgAlt (Instr.wren.ins cfgAlt) = 0x06000003#32 ∧
    encIns cfgAlt ((Instr.se 0#32).ins cfgAlt) = 0x20010003#32 ∧
    encIns cfgAlt ((Instr.pp 0#32 [1#8, 2#8, 3#8, 4#8, 5#8]).ins cfgAlt) = 0x02070403#32 ∧
    enc cfgAlt 0x02 true true true true 256 = 0x0207FF03#32 ∧
    encIns cfgAlt ((Instr.wrsr1w 0#8 2#8).ins cfgAlt) = 0x01060103#32 := by decide

/-- The decodings of section 2.1. -/
theorem test_V1_decoding :
    dec cfgRef 0xC0040702#32 = ⟨true, true, 4#8, true, true, true, 0x02#8⟩ ∧
    dec cfgRef 0xC0000001#32 = ⟨true, true, 0#8, false, false, false, 0x01#8⟩ ∧
    (dec cfgRef 0x40000006#32).act = false := by decide

/-! ### V2: staging -/

theorem test_V2_staging :
    stageWords [] = [] ∧
    stageWords [0xAA#8] = [0xAA#32] ∧
    stageWords [0x00#8, 0x02#8] = [0x200#32] ∧
    stageWords [0x11#8, 0x22#8, 0x33#8] = [0x332211#32] ∧
    stageWords [0x11#8, 0x22#8, 0x33#8, 0x44#8] = [0x44332211#32] ∧
    stage cfgRef [0x11#8, 0x22#8, 0x33#8, 0x44#8, 0x55#8] =
      [(0x100#32, 0x44332211#32), (0x104#32, 0x55#32)] ∧
    stageWords [1#8, 2#8, 3#8, 4#8, 5#8, 6#8, 7#8] = [0x04030201#32, 0x00070605#32] ∧
    stageWords (List.replicate 6 0xFF#8) = [0xFFFFFFFF#32, 0xFFFF#32] := by decide

/-- The payload `p[i] = i` of V2.8 to V2.10. -/
def ramp (n : Nat) : List Byte := (List.range n).map (BitVec.ofNat 8)

@[simp] theorem length_ramp (n : Nat) : (ramp n).length = n := by simp [ramp]

theorem test_V2_full_buffer :
    (stage cfgRef (ramp 256))[0]? = some (0x100#32, 0x03020100#32) ∧
    (stage cfgRef (ramp 256))[1]? = some (0x104#32, 0x07060504#32) ∧
    (stage cfgRef (ramp 256))[63]? = some (0x1FC#32, 0xFFFEFDFC#32) ∧
    (stage cfgRef (ramp 256)).length = 64 ∧
    (stageWords (ramp 253))[63]? = some 0xFC#32 ∧ (stageWords (ramp 252)).length = 63 := by
  decide +kernel

/-! ### V3: the poller -/

/-- An ok answer, and one that is not. -/
def yes (v : Word) : Draw := ⟨true, v⟩
def bad (v : Word) : Draw := ⟨false, v⟩

theorem test_V3_action_bit :
    waitRun cfgRef .act 0 [] = some ⟨[], .busy, []⟩ ∧
    waitRun cfgRef .act 1 [yes 0x40000420#32] = some ⟨[.r 0#32 0x40000420#32], .ok, []⟩ ∧
    waitRun cfgRef .act 1 [yes 0xC0000420#32] = some ⟨[.r 0#32 0xC0000420#32], .busy, []⟩ ∧
    waitRun cfgRef .act 3 [yes 0x80000000#32, yes 0x80000000#32, yes 0x80000000#32] =
      some ⟨List.replicate 3 (.r 0#32 0x80000000#32), .busy, []⟩ ∧
    waitRun cfgRef .act 3 [yes 0x80000000#32, yes 0x80000000#32, yes 0#32] =
      some ⟨[.r 0#32 0x80000000#32, .r 0#32 0x80000000#32, .r 0#32 0#32], .ok, []⟩ ∧
    waitRun cfgRef .act 3 [yes 0x80000000#32, yes 0x80000000#32, bad 0#32] =
      some ⟨[.r 0#32 0x80000000#32, .r 0#32 0x80000000#32, .rFail 0#32], .transport, []⟩ ∧
    waitRun cfgRef .act 3 [bad 0#32] = some ⟨[.rFail 0#32], .transport, []⟩ ∧
    waitRun cfgRef .act 2 [yes 0x80000000#32, yes 0x7FFFFFFF#32] =
      some ⟨[.r 0#32 0x80000000#32, .r 0#32 0x7FFFFFFF#32], .ok, []⟩ := by decide

theorem test_V3_idle_bit :
    waitRun cfgRef .idle 2 [yes 1#32, yes 1#32] = some ⟨[.r 0x10#32 1#32, .r 0x10#32 1#32], .busy, []⟩ ∧
    waitRun cfgRef .idle 2 [yes 0xEF01#32, yes 0xEF00#32] =
      some ⟨[.r 0x10#32 0xEF01#32, .r 0x10#32 0xEF00#32], .ok, []⟩ ∧
    waitRun cfgRef .idle 1 [yes 0xFFFFFFFE#32] = some ⟨[.r 0x10#32 0xFFFFFFFE#32], .ok, []⟩ := by decide

/-! ### V4, V5, V6: operations as functions of the answers (R187) -/

/-- `runOp` of a request under the reference configuration. -/
def opRun (r : Request) (ans : List Draw) : Option Run := runOp cfgRef r (expansion cfgRef r) ans

theorem test_V4_4_erase_sector :
    opRun (.eraseSector 0x1000#32) [yes 0#32, yes 0x40000006#32, yes 0#32, yes 0#32, yes 0xC0000420#32,
      yes 0xC0000420#32, yes 0x40000420#32] =
    some ⟨[.w 0#32 0xC0000006#32, .r 0#32 0x40000006#32, .w 4#32 0x1000#32, .w 0#32 0xC0000420#32,
      .r 0#32 0xC0000420#32, .r 0#32 0xC0000420#32, .r 0#32 0x40000420#32], .ok, []⟩ := by decide
theorem test_V4_11_failed_address_write :
    opRun (.eraseSector 0x2000#32) [yes 0#32, yes 0x40000006#32, bad 0#32] =
    some ⟨[.w 0#32 0xC0000006#32, .r 0#32 0x40000006#32, .wFail 4#32 0x2000#32], .transport, []⟩ := by decide
theorem test_V4_13_erase_chip :
    opRun .eraseChip [yes 0#32, yes 0x40000006#32, yes 0#32, yes 0x400000C7#32] =
    some ⟨[.w 0#32 0xC0000006#32, .r 0#32 0x40000006#32, .w 0#32 0xC00000C7#32, .r 0#32 0x400000C7#32],
      .ok, []⟩ := by decide
theorem test_V5_1_quad_enable_vendor :
    opRun .quadEnable [yes 0#32, yes 0x40000006#32, yes 0xEF00#32, yes 0#32, yes 0#32, yes 0xEF01#32,
      yes 0xEF00#32] =
    some ⟨[.w 0#32 0xC0000006#32, .r 0#32 0x40000006#32, .r 0x10#32 0xEF00#32, .w 0x100#32 2#32,
      .w 0#32 0xC0000331#32, .r 0x10#32 0xEF01#32, .r 0x10#32 0xEF00#32], .ok, []⟩ := by decide
theorem test_V5_4_protect_disable_generic :
    opRun .protectDisable [yes 0#32, yes 0x40000006#32, yes 0xC200#32, yes 0#32, yes 0#32, yes 0xC200#32] =
    some ⟨[.w 0#32 0xC0000006#32, .r 0#32 0x40000006#32, .r 0x10#32 0xC200#32, .w 0x100#32 0x200#32,
      .w 0#32 0xC0010301#32, .r 0x10#32 0xC200#32], .ok, []⟩ := by decide
theorem test_V5_6_one_off_the_vendor_value :
    bucketOf cfgRef (byteAt 0xEE00#32 cfgRef.mfrLsb) = .generic ∧
    bucketOf cfgRef (byteAt 0xEF00#32 cfgRef.mfrLsb) = .vendorA := by decide
theorem test_V5_7_manufacturer_read_fails :
    opRun .quadEnable [yes 0#32, yes 0x40000006#32, bad 0#32] =
    some ⟨[.w 0#32 0xC0000006#32, .r 0#32 0x40000006#32, .rFail 0x10#32], .transport, []⟩ := by decide
theorem test_V6_1_page_program :
    opRun (.pageProgram 0x10#32 [0x11#8, 0x22#8, 0x33#8, 0x44#8, 0x55#8]) [yes 0#32, yes 0x40000006#32,
      yes 0#32, yes 0#32, yes 0#32, yes 0#32, yes 0xC0040702#32, yes 0x40040702#32] =
    some ⟨[.w 0#32 0xC0000006#32, .r 0#32 0x40000006#32, .w 4#32 0x10#32, .w 0x100#32 0x44332211#32,
      .w 0x104#32 0x55#32, .w 0#32 0xC0040702#32, .r 0#32 0xC0040702#32, .r 0#32 0x40040702#32],
      .ok, []⟩ := by decide
theorem test_V6_3_page_program_no_bytes :
    opRun (.pageProgram 0x200#32 []) [yes 0#32, yes 0x40000006#32, yes 0#32, yes 0#32, yes 0x40000702#32] =
    some ⟨[.w 0#32 0xC0000006#32, .r 0#32 0x40000006#32, .w 4#32 0x200#32, .w 0#32 0xC0000702#32,
      .r 0#32 0x40000702#32], .ok, []⟩ := by decide

/-! ### V7 and S10: the envelope and the geometry -/

theorem test_V7_envelopes :
    (firstPage 4096 0x10, lastPage 4096 0x10 100) = (0, 1) ∧
    (firstPage 4096 0, lastPage 4096 0 4096) = (0, 1) ∧
    (firstPage 4096 0xFFF, lastPage 4096 0xFFF 2) = (0, 2) ∧
    (firstPage 4096 0x1000, lastPage 4096 0x1000 1) = (1, 2) ∧
    (firstPage 4096 0xFFF, lastPage 4096 0xFFF 1) = (0, 1) ∧
    (firstPage 4096 0x1FF800, lastPage 4096 0x1FF800 0x800) = (511, 512) ∧
    (firstPage 4096 0, lastPage 4096 0 0x200000) = (0, 512) := by decide
/-- S11: the moves of `write(buf, 0x10, 100)`. -/
theorem test_S11_write_moves :
    writeMoves .coveredSectors 4096 (ramp 100) 0x10 100 =
      [.fringe 0 0x10, .copy (ramp 100), .fringe 0x74 3980, .submit (.eraseSector 0#32), .transfer 0] := by
  decide
theorem test_S10_known_device :
    ((State.setGeometry ⟨0#32, "reference", 4, 2048⟩ State.reset).sectors.length,
      (State.setGeometry ⟨0#32, "reference", 4, 2048⟩ State.reset).sectorSize) = (512, 4096) := by
  simp only [State.setGeometry, List.length_replicate]
/-- R301. -/
theorem test_result_codes :
    [Res.ok, .transport, .busy, .protocol .badLength].map resultCode = [0, 1, 2, 3] := by decide

/-! ### One step of each instruction -/

/-- A small device of four sectors of 16 bytes, and short timeouts. -/
def cfgSmall : Cfg :=
  { cfgRef with
    sectorSize := 16, flashSize := 64, tWren := 3, tSe := 3, tCe := 3, tPp := 3, tWrsr := 3
    deviceTable := [⟨0x1234#32, "small", 1, 4⟩] }

/-- A probed machine over that device, in a phase, with a queue and the answers to come; bytes 15, 16, 31
and 32 are not erased. -/
def base (ph : Phase) (q : List Elem) (tape : List Draw) : State :=
  { State.reset with
    cfg := cfgSmall
    ph := ph
    q := q
    probed := true
    sectorSize := 16
    flashSize := 64
    sectors := List.replicate 4 ⟨.no, .unknown⟩
    issued := true
    dev := ⟨⟨.erased, [(15, 0x5A#8), (16, 0x00#8), (31, 0x33#8), (32, 0xA5#8)]⟩, true, 0#8, 0#8⟩
    env := ⟨.oracle, tape, 1, [], 0⟩ }

/-- The machine waiting for an instruction that the next read shows complete. -/
def waiting (i : Instr) (rest : List Elem) : State :=
  { base .wait (.ins i :: rest) [yes 0#32] with flight := .running i }

/-- What a step leaves, seen through a function. -/
def seen {α : Type} (o : Host.Outcome State Fault Refusal) (f : State → α) : Option α :=
  match o with
  | .next t => some (f t)
  | .fault _ | .refused _ => none

/-- What was seen was a next state. -/
theorem next_of_seen {o : Host.Outcome State Fault Refusal} (h : (seen o (fun _ => ())).isSome = true) :
    ∃ t, o = .next t := by
  cases o with
  | next t => exact ⟨t, rfl⟩
  | fault _ | refused _ => cases h

/-- The flash bytes at some offsets. -/
def bytesAt (xs : List Nat) (s : State) : List Byte := xs.map (s.dev.flash.read s.cfg)

/-- R184, R190, V4.1. -/
theorem test_wren_issue :
    seen (exec .wren (base .issue [.ins .wren] [yes 0#32])) (fun t => (t.trace, t.ph, t.cnt, t.flight)) =
      some ([.w 0#32 0xC0000006#32], .wait, 0, .running .wren) := by decide
/-- R44, R190: from a cleared latch. -/
theorem test_wren_completes :
    seen (exec .wren { waiting .wren [] with dev := { (waiting .wren []).dev with wel := false } })
      (fun t => (t.dev.wel, t.ph, t.res)) = some (true, .done, .ok) := by decide
/-- R182. -/
theorem test_se_address :
    seen (exec (.se 16#32) (base .addr [.ins (.se 16#32)] [yes 0#32])) (fun t => (t.regs.addr, t.trace, t.ph))
      = some (16#32, [.w 4#32 16#32], .issue) := by decide
/-- R200: the sector's first and last byte, and its neighbours. -/
theorem test_se_completes :
    seen (exec (.se 16#32) (waiting (.se 16#32) [])) (fun t => (bytesAt [15, 16, 31, 32] t, t.dev.wel)) =
      some ([0x5A#8, 0xFF#8, 0xFF#8, 0xA5#8], false) := by decide
/-- R201. -/
theorem test_ce_issue :
    seen (exec .ce (base .issue [.ins .ce] [yes 0#32])) State.trace = some [.w 0#32 0xC00000C7#32] := by decide
theorem test_ce_completes :
    seen (exec .ce (waiting .ce [])) (bytesAt [15, 16, 31, 32]) = some (List.replicate 4 0xFF#8) := by decide
/-- R183, V6.1: the second buffer word. -/
theorem test_pp_second_word :
    seen (exec (.pp 0#32 [0x11#8, 0x22#8, 0x33#8, 0x44#8, 0x55#8])
        { base .buf [.ins (.pp 0#32 [0x11#8, 0x22#8, 0x33#8, 0x44#8, 0x55#8])] [yes 0#32] with k := 1 })
      (fun t => (t.regs.buf[1]?, t.trace, t.ph)) = some (some 0x55#32, [.w 0x104#32 0x55#32], .issue) := by
  decide +kernel
/-- R220: the bitwise and, over 0x33 and 0xA5. -/
theorem test_pp_completes :
    seen (exec (.pp 31#32 [0x0F#8, 0x3C#8]) (waiting (.pp 31#32 [0x0F#8, 0x3C#8]) []))
      (bytesAt [30, 31, 32, 33]) = some [0xFF#8, 0x03#8, 0x24#8, 0xFF#8] := by decide
/-- R240, R241, R242. -/
theorem test_wrsr1_completes :
    seen (exec (.wrsr1 0x1C#8) (waiting (.wrsr1 0x1C#8) [])) (fun t => (t.dev.sr1, t.dev.sr2, t.dev.wel)) =
      some (0x1C#8, 0#8, false) := by decide
theorem test_wrsr2_completes :
    seen (exec (.wrsr2 2#8) (waiting (.wrsr2 2#8) [])) (fun t => (t.dev.sr1, t.dev.sr2, t.dev.wel)) =
      some (0#8, 2#8, false) := by decide
theorem test_wrsr1w_completes :
    seen (exec (.wrsr1w 1#8 2#8) (waiting (.wrsr1w 1#8 2#8) [])) (fun t => (t.dev.sr1, t.dev.sr2)) =
      some (1#8, 2#8) := by decide
/-- V5.8 against V5.1: the status writes wait on the status-idle bit under `PK_WRSR = IDLE`. -/
theorem test_wrsr2_reads_the_status_register :
    seen (exec (.wrsr2 2#8) (waiting (.wrsr2 2#8) [])) State.trace = some [.r 0x10#32 0#32] := by decide
/-- V4.2 (`tainted`), V4.11 (not). -/
theorem test_failed_issue_taints :
    seen (exec .wren (base .issue [.ins .wren] [bad 0#32])) (fun t => (t.res, t.tainted)) =
      some (.transport, true) := by decide
theorem test_failed_address_write_does_not_taint :
    seen (exec (.se 16#32) (base .addr [.ins (.se 16#32)] [bad 0#32])) (fun t => (t.res, t.tainted)) =
      some (.transport, false) := by decide
/-- R116, R140: `encode` beyond the buffer ends with BAD_LENGTH, and 256 bytes do not. -/
theorem test_encode_bad_length :
    seen (accept (.encode 2#8 true true true true 257) (base .idle [] [])) State.res =
      some (.protocol .badLength) ∧
    seen (accept (.encode 2#8 true true true true 256) (base .idle [] [])) (fun t => t.host.outWord) =
      some 0xC0FF0702#32 := by decide
/-- S12: in the reference environment too the allocation of the bulk path can fail. -/
theorem test_S12_allocation_fails :
    seen (transferStep 16 { base .idle [] [] with
        cfg := { cfgSmall with bulkFirst := true }
        env := ⟨.reference, [bad 0#32], 1, [], 0⟩
        host := { State.reset.host with scratch := [5#8] } }) (fun t => t.host.moves) =
      some [.submit (.pageProgram 16#32 [5#8])] := by decide
/-- A write keeps the canonical form: the erased value removes the entry, another keeps the order. -/
theorem test_unlisting :
    (Memory.write cfgSmall 15 0xFF#8 ⟨.erased, [(15, 0x5A#8)]⟩).cells = [] ∧
    (Memory.write cfgSmall 3 1#8 ⟨.erased, [(15, 0x5A#8)]⟩).cells = [(3, 1#8), (15, 0x5A#8)] := by decide

/-! ### Hypotheses of the obligations, met -/

theorem hyps_EncoderLaws :
    cfgRef.wf = true ∧ cfgAlt.wf = true ∧ 0 ≤ bufBytes ∧ 1 ≤ bufBytes ∧ 256 ≤ bufBytes ∧
    (ramp 256).length ≤ bufBytes ∧ 255 < (ramp 256).length ∧
    (ramp 5).length ≤ 5 ∧ (ramp 5).length ≤ 7 ∧ 7 < 4 * divUp (ramp 5).length 4 := by
  simp [divUp]; decide
theorem hyps_DecodeOfEncode :
    cfgRef.wf = true ∧ (Instr.pp 0xFFFFFFFF#32 (ramp 256)).wf = true ∧ (Instr.pp 0#32 []).wf = true ∧
    (Instr.wrsr1w 0xFF#8 0#8).wf = true := by simp [Instr.wf]; decide
theorem hyps_AcceptedWordsAreEncoded :
    cfgRef.wf = true ∧ commandOf cfgRef 0xC0FF0702#32 = .ok .PP ∧ commandOf cfgRef 0xC0000702#32 = .ok .PP ∧
    commandOf cfgRef 0xC0010301#32 = .ok .WRSR1W := by decide
theorem hyps_RowsDoNotOverlap :
    cfgRef.wf = true ∧ rowMatches cfgRef (dec cfgRef 0xC0010301#32) .WRSR1W = true ∧
    rowMatches cfgRef (dec cfgRef 0xC0000301#32) .WRSR1 = true := by decide
theorem hyps_ControllerDecodesTheInstruction :
    cfgRef.wf = true ∧ (Instr.pp 16#32 (ramp 5)).wf = true ∧
    (((Instr.pp 16#32 (ramp 5)).ins cfgRef).hasAddr = true → 16#32 = (Instr.pp 16#32 (ramp 5)).address) ∧
    (∀ k < divUp (Instr.pp 16#32 (ramp 5)).payload.length 4,
      [0x03020100#32, 4#32, 9#32][k]? = some (stageWord (Instr.pp 16#32 (ramp 5)).payload k)) ∧
    (∀ k < divUp (Instr.pp 16#32 []).payload.length 4, [9#32][k]? = some (stageWord [] k)) := by decide
theorem hyps_StepRunsTheHead :
    (base .addr [.ins (.se 16#32)] []).ph = .addr ∧ (base .buf [.ins (.wrsr1 1#8)] []).ph = .buf ∧
    (base .issue [.ins .ce] []).ph = .issue ∧ (base .wait [.ins .wren] []).ph = .wait := by decide
theorem hyps_StepRunsThePlacedWord :
    decodeBits State.reset.cfg 32 0xC0000420 = some (.se 0#32) ∧
    decodeBits State.reset.cfg 32 0x40000006 = none ∧ decodeBits State.reset.cfg 32 (2 ^ 32) = none := by
  decide
theorem hyps_AddressPhase :
    let s := fun d => base .addr [.ins (.pp 16#32 [1#8])] [d]
    (s (yes 0#32)).ph = .addr ∧ ((Instr.pp 16#32 [1#8]).ins cfgSmall).hasAddr = true ∧
    Answered (s (yes 0#32)) (yes 0#32) [] ∧ (yes 0#32).ok = true ∧
    Answered (s (bad 0#32)) (bad 0#32) [] ∧ (bad 0#32).ok = false :=
  ⟨rfl, rfl, ⟨rfl, rfl⟩, rfl, ⟨rfl, rfl⟩, rfl⟩
/-- The first and the last word of a full buffer. -/
theorem hyps_BufferPhase :
    let i := Instr.pp 0#32 (ramp 256)
    let s := fun k d => { base .buf [.ins i] [d] with k := k }
    (s 0 (yes 0#32)).ph = .buf ∧ (s 0 (yes 0#32)).k < divUp i.payload.length 4 ∧
    (s 63 (yes 0#32)).k < divUp i.payload.length 4 ∧ Answered (s 63 (yes 0#32)) (yes 0#32) [] ∧
    (s 63 (yes 0#32)).k + 1 = divUp i.payload.length 4 ∧ Answered (s 63 (bad 0#32)) (bad 0#32) [] :=
  ⟨rfl, by simp [Instr.payload, divUp], by simp [Instr.payload, divUp], ⟨rfl, rfl⟩,
    by simp [Instr.payload, divUp], ⟨rfl, rfl⟩⟩
theorem hyps_IssuePhase :
    let s := fun d => base .issue [.ins .ce] [d]
    cfgSmall.wf = true ∧ Instr.ce.wf = true ∧ (s (yes 0#32)).ph = .issue ∧ (s (yes 0#32)).flight = .clear ∧
    Answered (s (yes 0#32)) (yes 0#32) [] ∧ Answered (s (bad 0#32)) (bad 0#32) [] :=
  ⟨by decide, rfl, rfl, rfl, ⟨rfl, rfl⟩, ⟨rfl, rfl⟩⟩
/-- The count at the timeout, and one below it with each of the three answers. -/
theorem hyps_WaitPhase :
    let s := fun n d => { base .wait [.ins .wren] [d] with cnt := n }
    (s 3 (yes 0#32)).ph = .wait ∧ (s 3 (yes 0#32)).cnt = (Instr.wren.ins cfgSmall).timeout ∧
    (s 2 (yes 0#32)).cnt ≠ (Instr.wren.ins cfgSmall).timeout ∧
    Answered (s 2 (bad 0#32)) (bad 0#32) [] ∧ (bad 0#32).ok = false ∧
    Answered (s 2 (yes 0x80000000#32)) (yes 0x80000000#32) [] ∧
    pending cfgSmall (Instr.wren.ins cfgSmall).pk (yes 0x80000000#32).value = true ∧
    Answered (s 2 (yes 0x7FFFFFFF#32)) (yes 0x7FFFFFFF#32) [] ∧
    pending cfgSmall (Instr.wren.ins cfgSmall).pk (yes 0x7FFFFFFF#32).value = false ∧
    (Instr.wren.ins cfgSmall).pk = .act ∧ (s 2 (yes 0x80000000#32)).issued = true ∧
    ({ s 2 (yes 0x80000000#32) with issued := false } : State).issued = false ∧
    ((Instr.wrsr1 0#8).ins cfgSmall).pk = .idle :=
  ⟨rfl, rfl, by decide, ⟨rfl, rfl⟩, rfl, ⟨rfl, rfl⟩, by decide, ⟨rfl, rfl⟩, by decide, rfl, rfl, rfl, rfl⟩

/-- The same of a bare wait, of both signals, before any ISSUE. -/
theorem hyps_WaitPhase_poll :
    let s := fun pk n d => { base .wait [.poll pk 3] [d] with cnt := n, issued := false }
    (∀ pk n d, (s pk n d).ph = .wait ∧ (s pk n d).q = [.poll pk 3] ∧ (s pk n d).q.tail = [] ∧
      Answered (s pk n d) d [] ∧ (s pk n d).flight = .clear ∧ (s pk n d).env.mode = .oracle ∧
      (s pk n d).issued = false ∧ (s pk n d).cnt = n) ∧ 2 ≠ 3 ∧
    pending cfgSmall .act 0x80000000#32 = true ∧ pending cfgSmall .idle 1#32 = true :=
  ⟨fun _ _ _ => ⟨rfl, rfl, rfl, ⟨rfl, rfl⟩, rfl, rfl, rfl, rfl⟩, by decide, by decide, by decide⟩
/-- A failed read of a bare wait marks the machine; a clear bit ends the wait OK (R302, R163). -/
theorem test_bare_wait :
    let s := fun d => { base .wait [.poll .act 3] [d] with req := .waitAct 3 }
    (∃ t, step (s (bad 0#32)) = .next t ∧ t.tainted = true ∧ t.res = .transport) ∧
    (∃ t, step (s (yes 0#32)) = .next t ∧ t.tainted = false ∧ t.ph = .done ∧ t.res = .ok) :=
  ⟨⟨_, rfl, rfl, rfl⟩, ⟨_, rfl, rfl, rfl, rfl⟩⟩

/-- A read of 0 shows either bit clear. -/
theorem pending_zero (pk : Signal) : pending cfgSmall pk 0#32 = false := by cases pk <;> decide

/-- `waiting` waits for its instruction, and the next read shows it complete. -/
theorem completing_waiting (i : Instr) (es : List Elem) : Completing i (waiting i es) (yes 0#32) [] := by
  cases i <;> exact ⟨rfl, (by decide : (0 : Nat) ≠ 3), ⟨rfl, rfl⟩, rfl, pending_zero _⟩

theorem hyps_EndOfInstruction :
    let es := fun j => [Elem.ins j]
    Completing .wren (waiting .wren []) (yes 0#32) [] ∧ (waiting .wren []).q.tail = [] ∧
    Completing .wren (waiting .wren (es (.se 0#32))) (yes 0#32) [] ∧
    ((Instr.se 0#32).ins cfgSmall).hasAddr = true ∧
    Completing .wren (waiting .wren (es (.wrsr2 2#8))) (yes 0#32) [] ∧
    ((Instr.wrsr2 2#8).ins cfgSmall).hasAddr = false ∧ (Instr.wrsr2 2#8).payload ≠ [] ∧
    Completing .wren (waiting .wren (es .ce)) (yes 0#32) [] ∧ (Instr.ce.ins cfgSmall).hasAddr = false ∧
    Instr.ce.payload = [] ∧ Completing .wren (waiting .wren [.mfr]) (yes 0#32) [] ∧
    (waiting .wren [.mfr]).q.tail = [.mfr] :=
  ⟨completing_waiting _ _, rfl, completing_waiting _ _, rfl, completing_waiting _ _, rfl, by decide,
    completing_waiting _ _, rfl, rfl, completing_waiting _ _, rfl⟩
theorem hyps_WrenCompletes :
    Completing .wren (waiting .wren []) (yes 0#32) [] ∧ (waiting .wren []).flight = .running .wren :=
  ⟨completing_waiting _ _, rfl⟩
/-- The first and the last sector. -/
theorem hyps_SectorEraseCompletes :
    ∀ a : Word, a = 0#32 ∨ a = 48#32 → Completing (.se a) (waiting (.se a) []) (yes 0#32) [] ∧
      (waiting (.se a) []).flight = .running (.se a) ∧ Ready (waiting (.se a) []) ∧
      a.toNat % cfgSmall.sectorSize = 0 ∧ a.toNat < cfgSmall.flashSize := by
  rintro a (rfl | rfl) <;> exact ⟨completing_waiting _ _, rfl, ⟨rfl, rfl⟩, by decide, by decide⟩
theorem hyps_ChipEraseCompletes :
    Completing .ce (waiting .ce []) (yes 0#32) [] ∧ (waiting .ce []).flight = .running .ce ∧
    Ready (waiting .ce []) := ⟨completing_waiting _ _, rfl, ⟨rfl, rfl⟩⟩
/-- A program that ends with the array's last byte, and one of no bytes seen as one byte. -/
theorem hyps_PageProgramCompletes :
    (Completing (.pp 62#32 [1#8, 2#8]) (waiting (.pp 62#32 [1#8, 2#8]) []) (yes 0#32) [] ∧
      (waiting (.pp 62#32 [1#8, 2#8]) []).flight = .running (.pp 62#32 [1#8, 2#8]) ∧
      Ready (waiting (.pp 62#32 [1#8, 2#8]) []) ∧ (62#32 : Word).toNat + [1#8, 2#8].length ≤ 64) ∧
    Completing (.pp 3#32 []) { waiting (.pp 3#32 []) [] with flight := .running (.pp 3#32 [7#8]) }
      (yes 0#32) [] ∧ (3#32 : Word).toNat + [7#8].length ≤ 64 :=
  ⟨⟨completing_waiting _ _, rfl, ⟨rfl, rfl⟩, by decide⟩, completing_waiting (.pp 3#32 []) [], by decide⟩
theorem hyps_StatusWritesComplete :
    (waiting (.wrsr1 1#8) []).dev.wel = true ∧ cfgSmall.layoutKnown = true ∧
    Completing (.wrsr1 1#8) (waiting (.wrsr1 1#8) []) (yes 0#32) [] ∧
    Completing (.wrsr2 1#8) (waiting (.wrsr2 1#8) []) (yes 0#32) [] ∧
    Completing (.wrsr1w 1#8 2#8) (waiting (.wrsr1w 1#8 2#8) []) (yes 0#32) [] ∧
    (waiting (.wrsr1w 1#8 2#8) []).flight = .running (.wrsr1w 1#8 2#8) :=
  ⟨rfl, rfl, completing_waiting _ _, completing_waiting _ _, completing_waiting _ _, rfl⟩
/-- No latch; a set protection bit; one past a sector's start; the first offset past the array; one byte
past it. -/
theorem hyps_OpenEffectsAreFree :
    (∀ i, Completing i (waiting i []) (yes 0#32) [] ∧ (waiting i []).flight = .running i) ∧
    ¬ Ready { waiting .ce [] with dev := { (waiting .ce []).dev with wel := false } } ∧
    ¬ Ready { waiting .ce [] with dev := { (waiting .ce []).dev with sr1 := 4#8 } } ∧
    (17#32 : Word).toNat % cfgSmall.sectorSize ≠ 0 ∧ cfgSmall.flashSize ≤ (64#32 : Word).toNat ∧
    cfgSmall.flashSize < (63#32 : Word).toNat + [1#8, 2#8].length ∧
    ({ waiting (.wrsr1 1#8) [] with dev := { (waiting .ce []).dev with wel := false } } : State).dev.wel =
      false ∧ ({ waiting (.wrsr1 1#8) [] with
        cfg := { cfgSmall with layoutKnown := false } } : State).cfg.layoutKnown = false ∧
    Completing (.wrsr1 1#8)
      { waiting (.wrsr1 1#8) [] with cfg := { cfgSmall with layoutKnown := false } } (yes 0#32) [] :=
  ⟨fun i => ⟨completing_waiting i [], rfl⟩, by unfold Ready; decide, by unfold Ready; decide, by decide,
    by decide, by decide, rfl, rfl,
    ⟨rfl, (by decide : (0 : Nat) ≠ 3), ⟨rfl, rfl⟩, rfl, by decide⟩⟩

/-- A step of each phase that answers a next state: hypotheses of the frames. -/
theorem hyps_InstructionFrame :
    (∃ t, exec (.se 16#32) (base .addr [.ins (.se 16#32)] [yes 0#32]) = .next t ∧ t.ph ≠ .done) ∧
    (∃ t, exec (.wrsr1 1#8) (base .buf [.ins (.wrsr1 1#8)] [yes 0#32]) = .next t ∧ t.ph ≠ .done) ∧
    (∃ t, exec .ce (waiting .ce []) = .next t) := ⟨⟨_, rfl, by decide⟩, ⟨_, rfl, by decide⟩, ⟨_, rfl⟩⟩
theorem hyps_OperandRegisterFrame :
    (∃ t, exec .ce (base .issue [.ins .ce] [yes 0#32]) = .next t) ∧
    (∃ t, exec (.se 0#32) (base .addr [.ins (.se 0#32)] [yes 0#32]) = .next t) ∧
    (∃ t, exec (.wrsr1w 1#8 2#8) (base .buf [.ins (.wrsr1w 1#8 2#8)] [yes 0#32]) = .next t) ∧
    divUp (Instr.wrsr1w 1#8 2#8).payload.length 4 ≤ 1 := ⟨⟨_, rfl⟩, ⟨_, rfl⟩, ⟨_, rfl⟩, by decide⟩
theorem hyps_FlashFrame :
    (base .issue [.ins .ce] [yes 0#32]).env.mode = .oracle ∧
    (∃ t, exec .ce (base .issue [.ins .ce] [yes 0#32]) = .next t) ∧
    (∃ t, exec .ce (base .wait [.ins .ce] [yes 0#32]) = .next t) ∧
    (∀ i, ∃ t, exec i (waiting i []) = .next t) ∧ Ready (waiting .ce []) ∧
    (48#32 : Word).toNat % cfgSmall.sectorSize = 0 ∧ (48#32 : Word).toNat < cfgSmall.flashSize ∧
    (47 : Nat) < (48#32 : Word).toNat ∧ (48#32 : Word).toNat + cfgSmall.sectorSize ≤ 64 ∧
    (62#32 : Word).toNat + [1#8, 2#8].length ≤ cfgSmall.flashSize ∧
    (∃ t, exec .ce { base .wait [.ins .ce] [] with cnt := 3 } = .next t) ∧
    (∃ t, exec .ce (base .wait [.ins .ce] [bad 0#32]) = .next t) ∧
    Answered (base .wait [.ins .ce] [bad 0#32]) (bad 0#32) [] ∧
    (∃ t, exec .ce (base .wait [.ins .ce] [yes 0x80000000#32]) = .next t) ∧
    Answered (base .wait [.ins .ce] [yes 0x80000000#32]) (yes 0x80000000#32) [] ∧
    pending cfgSmall (Instr.ce.ins cfgSmall).pk 0x80000000#32 = true :=
  ⟨rfl, ⟨_, rfl⟩, ⟨_, rfl⟩, by intro i; cases i <;> exact ⟨_, rfl⟩, ⟨rfl, rfl⟩, by decide, by decide,
    by decide, by decide, by decide, ⟨_, rfl⟩, ⟨_, rfl⟩, ⟨rfl, rfl⟩, ⟨_, rfl⟩, ⟨rfl, rfl⟩, by decide⟩
/-- A failure in ADDR, in ISSUE and in WAIT, and a count that has run out. -/
theorem hyps_AbortIsPrecise :
    (∃ t, exec (.se 16#32) (base .addr [.ins (.se 16#32)] [bad 0#32]) = .next t ∧ t.ph = .done ∧
      t.res ≠ .ok) ∧
    (∃ t, exec .ce (base .issue [.ins .ce] [bad 0#32]) = .next t ∧ t.ph = .done ∧ t.res ≠ .ok) ∧
    (∃ t, exec .ce (base .wait [.ins .ce] [bad 0#32]) = .next t ∧ t.ph = .done ∧ t.res ≠ .ok) ∧
    (∃ t, exec .ce { base .wait [.ins .ce] [] with cnt := 3 } = .next t ∧ t.ph = .done ∧ t.res ≠ .ok) :=
  ⟨⟨_, rfl, rfl, by decide⟩, ⟨_, rfl, rfl, by decide⟩, ⟨_, rfl, rfl, by decide⟩, ⟨_, rfl, rfl, by decide⟩⟩
theorem hyps_FailedWriteLeavesFreeValue :
    (bad 0#32).ok = false ∧
    (Answered (base .addr [.ins (.se 16#32)] [bad 0#32]) (bad 0#32) [] ∧
      ((Instr.se 16#32).ins cfgSmall).hasAddr = true) ∧
    (Answered (base .buf [.ins (.wrsr1 1#8)] [bad 0#32]) (bad 0#32) [] ∧
      (base .buf [.ins (.wrsr1 1#8)] [bad 0#32]).k < divUp (Instr.wrsr1 1#8).payload.length 4) ∧
    (Answered (base .issue [.ins .ce] [bad 0#32]) (bad 0#32) [] ∧
      (base .issue [.ins .ce] [bad 0#32]).flight = .clear) :=
  ⟨rfl, ⟨⟨rfl, rfl⟩, rfl⟩, ⟨⟨rfl, rfl⟩, by decide⟩, ⟨⟨rfl, rfl⟩, rfl⟩⟩
theorem hyps_NoIssueOverACommandInFlight :
    (base .issue [.ins .ce] []).ph = .issue ∧ (base .issue [.ins .ce] []).flight = .clear ∧
    ({ base .issue [.ins .ce] [] with flight := .running .wren } : State).flight ≠ .clear := by decide
/-- The first and the last of the four sectors, inside and outside what each request targets. -/
theorem hyps_SectorFlagsOnSuccess :
    let s := fun r => { waiting .ce [] with req := r }
    (∀ r, Completing .ce (s r) (yes 0#32) [] ∧ (s r).q.tail = [] ∧ 0 < (s r).sectors.length ∧
      3 < (s r).sectors.length) ∧
    (s (.eraseSector 48#32)).req = .eraseSector 48#32 ∧ (48#32 : Word).toNat / 16 = 3 ∧
    (s .eraseChip).req = .eraseChip ∧ (s (.waitAct 0)).req = .waitAct 0 ∧
    (s (.single .ce)).req = .single .ce ∧ (s .quadEnable).req = .quadEnable ∧
    (s (.pageProgram 15#32 [1#8, 2#8])).req = .pageProgram 15#32 [1#8, 2#8] ∧
    (15#32 : Word).toNat / 16 ≤ 0 ∧ 1 ≤ ((15#32 : Word).toNat + max [1#8, 2#8].length 1 - 1) / 16 :=
  ⟨fun _ => ⟨completing_waiting .ce [], rfl, (by decide : 0 < 4), (by decide : 3 < 4)⟩, rfl, by decide, rfl, rfl, rfl, rfl, rfl,
    by decide, by decide⟩
/-- A bare wait that ends OK, and two that fail. -/
theorem hyps_SectorFlags_poll :
    let s := fun n d => { base .wait [.poll .idle 3] [d] with req := .waitIdle 3, cnt := n }
    Hitting .idle 3 (s 0 (yes 0#32)) (yes 0#32) [] ∧ (s 0 (yes 0#32)).q = [.poll .idle 3] ∧
    (s 0 (yes 0#32)).req = .waitIdle 3 ∧ 3 < (s 0 (yes 0#32)).sectors.length ∧
    (∃ t, step (s 0 (bad 0#32)) = .next t ∧ t.ph = .done ∧ t.res = .transport) ∧
    (∃ t, step (s 3 (bad 0#32)) = .next t ∧ t.ph = .done ∧ t.res = .busy) :=
  ⟨⟨rfl, (by decide : (0 : Nat) ≠ 3), ⟨rfl, rfl⟩, rfl, pending_zero _⟩, rfl, rfl, (by decide : 3 < 4),
    ⟨_, rfl, rfl, rfl⟩, ⟨_, rfl, rfl, rfl⟩⟩
theorem hyps_SectorFlagsOnFailure :
    let s := fun r d => { base .wait [.ins .ce] d with req := r }
    (∃ t, exec .ce (s (.eraseSector 48#32) [bad 0#32]) = .next t ∧ t.ph = .done ∧ t.res = .transport) ∧
    (∃ t, exec .ce (s .eraseChip [bad 0#32]) = .next t ∧ t.ph = .done ∧ t.res = .transport) ∧
    (∃ t, exec .ce { s (.pageProgram 15#32 [1#8, 2#8]) [] with cnt := 3 } = .next t ∧ t.ph = .done ∧
      t.res = .busy) ∧
    (∃ t, exec .ce (s .protectDisable [bad 0#32]) = .next t ∧ t.ph = .done ∧ t.res = .transport) ∧
    3 < (s .eraseChip []).sectors.length :=
  ⟨⟨_, rfl, rfl, rfl⟩, ⟨_, rfl, rfl, rfl⟩, ⟨_, rfl, rfl, rfl⟩, ⟨_, rfl, rfl, rfl⟩, by decide⟩

/-- An idle machine with one call waiting. -/
def calling (c : Call) : State :=
  { base .idle [] [] with host := { State.reset.host with inbox := [c] } }

/-- The same before a probe. -/
def unprobed (c : Call) : State :=
  { calling c with probed := false, sectorSize := 0, flashSize := 0, sectors := [] }

theorem submitting_calling (r : Request) :
    Submitting r (calling (.request r)) ∧ Submitting r (unprobed (.request r)) :=
  ⟨⟨rfl, .inr (.inl ⟨rfl, [], rfl⟩)⟩, ⟨rfl, .inr (.inl ⟨rfl, [], rfl⟩)⟩⟩

/-- A request that is the next move of a call, and the one `massErase` is. -/
theorem submitting_otherwise (r : Request) (ms : List Move) :
    Submitting r { base .idle [] [] with host := { State.reset.host with moves := .submit r :: ms } } ∧
    Submitting .eraseChip (calling .massErase) :=
  ⟨⟨rfl, .inl ⟨ms, rfl⟩⟩, ⟨rfl, .inr (.inr ⟨rfl, rfl, [], rfl⟩)⟩⟩

theorem hyps_ProbedGate :
    (∀ r, Submitting r (unprobed (.request r)) ∧ (unprobed (.request r)).tainted = false ∧
      (unprobed (.request r)).probed = false) ∧ 256 ≤ bufBytes ∧ (ramp 256).length ≤ bufBytes :=
  ⟨fun r => ⟨(submitting_calling r).2, rfl, rfl⟩, by decide, by simp⟩
/-- Sector 1 protected: a program from the last byte of sector 0 reaches it, one byte less does not. -/
theorem hyps_AcceptanceTestsInOrder :
    let s := fun p => { calling (.request (.pageProgram 15#32 p)) with
      sectors := [⟨.no, .unknown⟩, ⟨.no, .yes⟩, ⟨.no, .no⟩, ⟨.no, .no⟩] }
    (∀ p, Submitting (.pageProgram 15#32 p) (s p) ∧ (s p).tainted = false ∧ (s p).probed = true) ∧
    (∃ t, step (unprobed (.request (.pageProgram 15#32 []))) = .next t) ∧
    (bufBytes < (List.replicate 257 0#8).length ∧ ∃ t, step (s (List.replicate 257 0#8)) = .next t) ∧
    (protFlag (s [1#8, 2#8]) 1 = some .yes ∧ 1 ≤ (15 + max [1#8, 2#8].length 1 - 1) / 16 ∧
      ∃ t, step (s [1#8, 2#8]) = .next t) ∧
    (protFlag (s [1#8]) 0 = some .unknown ∧ (15 + max [1#8].length 1 - 1) / 16 = 0 ∧
      ∃ t, step (s [1#8]) = .next t) ∧
    (let e := fun r => { s [] with host := { State.reset.host with inbox := [.request r] } };
      Submitting (.eraseSector 16#32) (e (.eraseSector 16#32)) ∧
      protFlag (e (.eraseSector 16#32)) ((16#32 : Word).toNat / 16) = some .yes ∧
      Submitting (.eraseSector 48#32) (e (.eraseSector 48#32)) ∧
      protFlag (e (.eraseSector 48#32)) ((48#32 : Word).toNat / 16) ≠ some .yes ∧
      (∃ t, step (e (.eraseSector 48#32)) = .next t) ∧ Submitting .eraseChip (e .eraseChip) ∧
      protFlag (e .eraseChip) 1 = some .yes) ∧
    (Submitting .eraseChip (calling (.request .eraseChip)) ∧
      ∀ n, protFlag (calling (.request .eraseChip)) n ≠ some .yes) :=
  ⟨fun _ => ⟨⟨rfl, .inr (.inl ⟨rfl, [], rfl⟩)⟩, rfl, rfl⟩, ⟨_, rfl⟩, ⟨by simp only [List.length_replicate]; decide, next_of_seen (by decide +kernel)⟩,
    ⟨rfl, by decide, ⟨_, rfl⟩⟩, ⟨rfl, by decide, ⟨_, rfl⟩⟩,
    ⟨⟨rfl, .inr (.inl ⟨rfl, [], rfl⟩)⟩, by decide, ⟨rfl, .inr (.inl ⟨rfl, [], rfl⟩)⟩, by decide, ⟨_, rfl⟩, ⟨rfl, .inr (.inl ⟨rfl, [], rfl⟩)⟩, rfl⟩,
    ⟨⟨rfl, .inr (.inl ⟨rfl, [], rfl⟩)⟩, fun n => by rcases n with _ | _ | _ | _ | n <;> simp [protFlag, calling, base]⟩⟩
theorem hyps_AcceptanceLoadsTheExpansion :
    ∀ r ∈ [Request.waitAct 0, .waitIdle 5, .writeEnable, .eraseSector 48#32, .eraseChip,
        .pageProgram 62#32 [1#8, 2#8], .quadEnable, .protectDisable, .single .ce],
      (calling (.request r)).tainted = false ∧ (calling (.request r)).refusalCause r = none ∧
      precondition (calling (.request r)).sectorSize (calling (.request r)).flashSize r = true ∧
      expansion cfgSmall r ≠ [] := by decide
theorem hyps_EncodeAndStageAnswer :
    (∀ r, (calling (.request r)).tainted = false ∧ Submitting r (calling (.request r))) ∧
    256 ≤ bufBytes ∧ bufBytes < 257 ∧ (ramp 256).length ≤ bufBytes ∧ bufBytes < (ramp 257).length :=
  ⟨fun r => ⟨rfl, (submitting_calling r).1⟩, by decide, by decide, by simp, by simp⟩
theorem hyps_TaintedRequestsRefused :
    Submitting .writeEnable { calling (.request .writeEnable) with tainted := true } ∧
    ({ calling (.request .writeEnable) with tainted := true } : State).tainted = true :=
  ⟨⟨rfl, .inr (.inl ⟨rfl, [], rfl⟩)⟩, rfl⟩
theorem hyps_OutsidePreconditionRefused :
    (∀ r, Submitting r (calling (.request r)) ∧ (calling (.request r)).tainted = false) ∧
    (calling .probe).refusalCause (.eraseSector 17#32) = none ∧ (17#32 : Word).toNat % 16 ≠ 0 ∧
    (calling .probe).refusalCause (.eraseSector 64#32) = none ∧ 64 ≤ (64#32 : Word).toNat ∧
    (calling .probe).refusalCause (.pageProgram 63#32 [1#8, 2#8]) = none ∧
    64 < (63#32 : Word).toNat + [1#8, 2#8].length :=
  ⟨fun r => ⟨(submitting_calling r).1, rfl⟩, by decide, by decide, by decide, by decide, by decide,
    by decide⟩
theorem hyps_CollectionReturnsToIdle : (base .done [] []).ph = .done := rfl
theorem hyps_ManufacturerStep :
    let s := fun r d => { base .mfr [.mfr] [d] with req := r }
    cfgSmall.wf = true ∧ (s .quadEnable (yes 0xEF00#32)).ph = .mfr ∧
    (s .quadEnable (yes 0xEF00#32)).q = [.mfr] ∧ (s .protectDisable (yes 0xEF00#32)).req = .protectDisable ∧
    Answered (s .quadEnable (bad 0#32)) (bad 0#32) [] ∧
    Answered (s .quadEnable (yes 0xEF00#32)) (yes 0xEF00#32) [] ∧
    byteAt 0xEF00#32 cfgSmall.mfrLsb = cfgSmall.mfrVendorA ∧
    byteAt 0xEE00#32 cfgSmall.mfrLsb ≠ cfgSmall.mfrVendorA :=
  ⟨by decide, rfl, rfl, rfl, ⟨rfl, rfl⟩, ⟨rfl, rfl⟩, by decide, by decide⟩
theorem hyps_OneWriteEnablePerStatusWrite :
    let es := (expansion cfgRef .protectDisable).filter (fun e => decide (e ≠ .mfr)) ++
      continuation .protectDisable .vendorA
    es[0]? = some (.ins .wren) ∧ es[2]? = some (.ins .wren) ∧ es[3]? = some (.ins (.wrsr1 0#8)) ∧
    Instr.wrsr1 0#8 ≠ .wren := by decide
/-- A hit on the last allowed read, an answer that is not ok, and no hit. -/
theorem hyps_WaitReadsToTheFirstHit :
    let hit := [yes 0x80000000#32, yes 0#32]
    2 ≤ hit.length ∧ 1 < 2 ∧ pending cfgRef .act (yes 0#32).value = false ∧
    ((yes 0x80000000#32).ok = true ∧ pending cfgRef .act (yes 0x80000000#32).value = true) ∧
    (bad 0#32).ok = false := by decide
theorem hyps_StepsComputeRunIns :
    let s := base .idle [] [yes 0#32, yes 0#32]
    s.cfg.wf = true ∧ Instr.wren.wf = true ∧ s.q = [] ∧ s.flight = .clear ∧ s.env.mode = .oracle ∧
    ∃ x, runIns s.cfg (Instr.wren.ins s.cfg) s.env.tape = some x :=
  ⟨by decide, rfl, rfl, rfl, rfl, ⟨_, rfl⟩⟩

/-- The idle machine with one call waiting meets the invariant. -/
theorem inv_calling (c : Call) : Inv (calling c) :=
  ⟨(by decide : cfgSmall.wf = true), rfl, rfl, rfl, by simp [geometryOk, calling, base, State.reset, State.resetWith],
    (by decide : Memory.wf cfgSmall (base .idle [] []).dev.flash = true)⟩

/-- A machine about to run a request with the given answers. -/
def running (r : Request) (tape : List Draw) : State :=
  { calling (.request r) with env := ⟨.oracle, tape, 1, [], 0⟩ }

theorem hyps_StepsComputeRunOp :
    let s := running .quadEnable [yes 0#32, yes 0#32, bad 0#32]
    Inv s ∧ Submitting .quadEnable s ∧ s.tainted = false ∧ s.refusalCause .quadEnable = none ∧
    precondition s.sectorSize s.flashSize .quadEnable = true ∧ expansion s.cfg .quadEnable ≠ [] ∧
    s.env.mode = .oracle ∧ ∃ x, runOp s.cfg .quadEnable (expansion s.cfg .quadEnable) s.env.tape = some x :=
  ⟨inv_calling _, ⟨rfl, .inr (.inl ⟨rfl, [], rfl⟩)⟩, rfl, rfl, rfl, by decide, rfl, ⟨_, rfl⟩⟩
theorem hyps_StepKeepsInvariant :
    Inv (calling (.request .writeEnable)) ∧ ∃ t, step (calling (.request .writeEnable)) = .next t :=
  ⟨inv_calling _, ⟨_, rfl⟩⟩
theorem hyps_OperationsEndWithinBound :
    let s := base .issue [.ins .wren, .ins (.se 48#32)] []
    Inv s ∧ engineTurn s := ⟨⟨by decide, rfl, rfl, rfl, rfl, by decide⟩, by decide⟩
theorem hyps_TaintedAndProbedStay :
    (∃ t, step { base .done [] [] with tainted := true } = .next t) ∧
    (∃ t, step { unprobed .probe with host := { State.reset.host with moves := [.setProbed] } } = .next t ∧
      t.probed = true) := ⟨⟨_, rfl⟩, ⟨_, rfl, rfl⟩⟩
theorem hyps_ProtectedFlagNeverWritten :
    ∃ t, step (waiting .ce []) = .next t ∧ ¬ ((waiting .ce []).ph = .idle ∧
      (waiting .ce []).host.moves.head? = some .readId) := ⟨_, rfl, by decide⟩
theorem hyps_DeviceChangesOnlyWhileWaiting :
    (waiting .ce []).env.mode = .oracle ∧ Inv (waiting .ce []) ∧
    ∃ t, step (waiting .ce []) = .next t ∧ t.dev ≠ (waiting .ce []).dev ∧ t.ph = .done ∧
      t.tainted = false :=
  ⟨rfl, ⟨by decide, rfl, rfl, rfl, rfl, by decide⟩, ⟨_, rfl, by decide, rfl, rfl⟩⟩
theorem hyps_CanonicalMemoriesAreEqual :
    Memory.wf cfgSmall ⟨.erased, [(15, 0x5A#8), (16, 0#8)]⟩ = true := by decide

/-- The reference environment at its last count and before it. -/
def counting (n : Nat) : State :=
  { waiting .wren [] with
    env := ⟨.reference, [], 1, [], n⟩
    regs := { Regs.reset with cmd := 0xC0000006#32, status := 1#32 } }

theorem hyps_ReferenceReadCountsDown :
    (counting 2).env.mode = .reference ∧ (counting 2).flight = .running .wren ∧
    cfgSmall.actBit < 32 ∧ cfgSmall.idleBit < 32 ∧
    pending cfgSmall .act ((counting 2).regs.get (pollReg .act)) = true ∧
    pending cfgSmall .idle ((counting 2).regs.get (pollReg .idle)) = true ∧ 1 < (counting 2).env.busy ∧
    (counting 1).env.busy = 1 := ⟨rfl, rfl, by decide, by decide, by decide, by decide, by decide, rfl⟩
/-- The first and the last byte of a sector, and programs that end with the array. -/
theorem hyps_ReferenceEffects :
    (waiting .ce []).dev.wel = true ∧
    ({ (waiting .ce []).dev with wel := false } : Device).wel = false ∧ Instr.ce ≠ .wren ∧
    0 < cfgSmall.sectorSize ∧ (48#32 : Word).toNat < cfgSmall.flashSize ∧
    (63#32 : Word).toNat < cfgSmall.flashSize ∧
    (62#32 : Word).toNat + [1#8, 2#8].length ≤ cfgSmall.flashSize := by decide
theorem hyps_ReferenceIssueStartsTheCommand :
    let i := Instr.pp 16#32 [5#8]
    let s : State := { base .issue [.ins i] [] with
      env := ⟨.reference, [], 1, [3], 0⟩
      regs := { Regs.reset with addr := 16#32, buf := Regs.reset.buf.setIfInBounds 0 5#32 } }
    s.cfg.wf = true ∧ i.wf = true ∧ s.env.mode = .reference ∧ s.ph = .issue ∧ s.flight = .clear ∧
    s.regs.addr = i.address ∧
    (∀ k < divUp i.payload.length 4, s.regs.buf.toList[k]? = some (stageWord i.payload k)) :=
  ⟨by decide, by decide, rfl, rfl, rfl, rfl, by decide +kernel⟩
theorem hyps_EnvelopeCoversTheWrite : 0 < 4096 ∧ 0 < 1 := by decide
theorem hyps_ReprobeIsANoOp :
    (calling .probe).ph = .idle ∧ (calling .probe).host.moves = [] ∧
    (calling .probe).host.inbox = [.probe] ∧ (calling .probe).probed = true := by decide
/-- Every move of probe, with both answers where it has one. -/
theorem hyps_ProbeSequence :
    let s := fun m d => { unprobed .probe with
      host := { State.reset.host with moves := [m] }, env := ⟨.oracle, [d], 1, [], 0⟩ }
    (∀ c, (unprobed c).ph = .idle ∧ (unprobed c).host.moves = [] ∧ (unprobed c).host.inbox = [c] ∧
      (unprobed c).probed = false) ∧
    (calling .autoProbe).host.inbox = [.autoProbe] ∧ (calling .autoProbe).probed = true ∧
    (∀ m d, (s m d).ph = .idle ∧ (s m d).host.moves = [m] ∧ (s m d).tainted = false ∧
      Answered (s m d) d []) ∧ (yes 0#32).ok = true ∧ (bad 0#32).ok = false :=
  ⟨fun _ => ⟨rfl, rfl, rfl, rfl⟩, rfl, rfl, fun _ _ => ⟨rfl, rfl, rfl, ⟨rfl, rfl⟩⟩, rfl, rfl⟩
/-- A known version ID and an unknown one. -/
theorem hyps_ProbeMatchesTheVersion :
    let s := fun v => { unprobed .probe with
      host := { State.reset.host with moves := probeMoves }
      env := ⟨.oracle, [yes v], 1, [], 0⟩ }
    (s 0x1234#32).ph = .idle ∧ (s 0x1234#32).tainted = false ∧
    (s 0x1234#32).host.moves = .readId :: probeMoves.tail ∧
    Answered (s 0x1234#32) (yes 0x1234#32) [] ∧
    (s 0x1234#32).cfg.deviceTable.find? (fun e => decide (e.versionId = (yes 0x1234#32).value)) =
      some ⟨0x1234#32, "small", 1, 4⟩ ∧
    (s 0x1235#32).cfg.deviceTable.find? (fun e => decide (e.versionId = (yes 0x1235#32).value)) = none ∧
    Answered { s 0#32 with env := ⟨.oracle, [bad 0#32], 1, [], 0⟩ } (bad 0#32) [] :=
  ⟨rfl, rfl, rfl, ⟨rfl, rfl⟩, by decide, by decide, ⟨rfl, rfl⟩⟩
/-- All four sectors, an empty range, and a range whose last sector does not exist. -/
theorem hyps_EraseCallIsAscending :
    let s := fun f l => calling (.erase f l)
    (s 0 3).ph = .idle ∧ (s 0 3).host.moves = [] ∧ (s 0 3).host.inbox = [.erase 0 3] ∧
    (s 0 3).probed = true ∧ 0 + 3 ≤ 3 ∧ 0 + 3 * (s 0 3).sectorSize < 2 ^ 32 ∧ (s 0 4).probed = true ∧
    (s 0 4).host.inbox = [.erase 0 4] ∧
    (s 2 1).host.inbox = [.erase 2 1] ∧ (unprobed (.erase 0 3)).probed = false := by decide
/-- The first offset past the array, and a move that no operand holds. -/
theorem hyps_EraseCallIsAscending_missing :
    let s := fun m => { calling .probe with host := { State.reset.host with moves := [m] } }
    (s .unaddressable).ph = .idle ∧ (s .unaddressable).tainted = false ∧
    (s .unaddressable).host.moves = [.unaddressable] ∧
    (s (.submit (.eraseSector 64#32))).refusalCause (.eraseSector 64#32) = none ∧
    (s (.submit (.eraseSector 64#32))).flashSize ≤ (64#32 : Word).toNat := by decide
/-- A write with a fringe on both sides that ends in the last sector; one of no bytes, one that ends a byte
beyond the flash, one whose buffer is a byte short. -/
theorem hyps_FringesArePreserved :
    let s := { calling (.write [1#8, 2#8] 47 2) with env := ⟨.reference, [], 1, [], 0⟩ }
    s.ph = .idle ∧ s.host.moves = [] ∧ s.host.inbox = [.write [1#8, 2#8] 47 [1#8, 2#8].length] ∧
    s.probed = true ∧ 0 < s.sectorSize ∧ 47 + [1#8, 2#8].length ≤ s.flashSize ∧
    envEnd s.sectorSize 47 [1#8, 2#8].length ≤ s.cfg.flashSize ∧ s.env.mode = .reference ∧
    s.tainted = false ∧ s.flight = .clear ∧ (unprobed (.write [] 0 0)).probed = false ∧
    (calling (.write [] 0 0)).host.inbox = [.write [] 0 0] ∧ (calling (.write [] 63 2)).flashSize < 63 + 2 ∧
    (calling (.write [1#8] 62 2)).host.inbox = [.write [1#8] 62 2] ∧ 62 + 2 ≤ s.flashSize ∧
    [1#8].length ≠ 2 := by decide
/-- A read that ends with the array's last byte and fails. -/
theorem hyps_FringesArePreserved_failed_read :
    let s := { base .idle [] [bad 0#32] with host := { State.reset.host with moves := [.fringe 48 16] } }
    s.ph = .idle ∧ s.tainted = false ∧ s.flight = .clear ∧ s.host.moves = [.fringe 48 16] ∧
    48 + 16 ≤ s.cfg.flashSize ∧ Answered s (bad 0#32) [] ∧ (bad 0#32).ok = false :=
  ⟨rfl, rfl, rfl, rfl, by decide, ⟨rfl, rfl⟩, rfl⟩
theorem hyps_StubsTouchNothing :
    ∀ c, (calling c).ph = .idle ∧ (calling c).host.moves = [] ∧ (calling c).host.inbox = [c] :=
  fun _ => ⟨rfl, rfl, rfl⟩
theorem hyps_SlowPathCoversTheEnvelope :
    0 < cfgRef.progChunk ∧ 1 < divUp (ramp 257).length 256 ∧ 256 < (ramp 257).length := by
  simp [divUp, cfgRef]
/-- The three transfers: slow only, an allocation that fails, one that succeeds. -/
theorem hyps_SlowPathCoversTheEnvelope_transfer :
    let s := fun b d => { base .idle [] [d] with
      cfg := { cfgSmall with bulkFirst := b }
      host := { State.reset.host with moves := [.transfer 16] } }
    (s true (bad 0#32)).ph = .idle ∧ (s true (bad 0#32)).tainted = false ∧
    (s true (bad 0#32)).host.moves = [.transfer 16] ∧ (s false (bad 0#32)).cfg.bulkFirst = false ∧
    (s true (bad 0#32)).cfg.bulkFirst = true ∧ (s true (bad 0#32)).env.tape = [bad 0#32] ∧
    (s true (yes 0#32)).env.tape = [yes 0#32] := by decide
theorem hyps_InvariantAtReset : cfgAlt.wf = true ∧ cfgSmall.wf = true := by decide
theorem hyps_EraseSectorEndToEnd :
    let s := running (.eraseSector 48#32) (List.replicate 5 (yes 0#32))
    Inv s ∧ Submitting (.eraseSector 48#32) s ∧ s.tainted = false ∧ s.probed = true ∧
    s.sectorSize = s.cfg.sectorSize ∧ s.flashSize = s.cfg.flashSize ∧
    (48#32 : Word).toNat % s.sectorSize = 0 ∧ (48#32 : Word).toNat < s.flashSize ∧
    protFlag s ((48#32 : Word).toNat / s.sectorSize) ≠ some .yes ∧ s.dev.sr1 = 0#8 ∧ 0 < s.cfg.tWren ∧
    0 < s.cfg.tSe ∧ s.env.mode = .oracle ∧ s.env.tape = List.replicate 5 (yes 0#32) ∧
    pending s.cfg .act (yes 0#32).value = false :=
  ⟨inv_calling _, ⟨rfl, .inr (.inl ⟨rfl, [], rfl⟩)⟩, rfl, rfl, rfl, rfl, by decide, by decide, by decide, rfl, by decide,
    by decide, rfl, rfl, by decide⟩

end Sys2Proof.Tests
end

section
/-! PROOFS. The rows of the command table and the words they share (R8 (d), R110, R115). Six ids stand for
seven rows: WRSR1 and WRSR1W have one id, and only LENGTH tells them apart. -/
namespace Sys2Proof

/-- The command ids in the order R8 (d) lists them. -/
def Cfg.commandIds (c : Cfg) : List Byte :=
  [c.idWren, c.idSe, c.idCe, c.idPp, c.idWrsr1, c.idWrsr2]

/-- R8 (d), out of `WF_CFG`. -/
theorem Cfg.commandIds_nodup_of_wf {c : Cfg} (h : c.wf = true) : c.commandIds.Nodup := by
  simp only [Cfg.wf, Cfg.wfIds, Bool.and_eq_true, decide_eq_true_eq] at h
  obtain ⟨⟨⟨-, hids⟩, -⟩, -⟩ := h
  exact hids

/-- The place of a row's id among the six. -/
def Mnemonic.idSlot : Mnemonic → Fin 6
  | .WREN => 0
  | .SE => 1
  | .CE => 2
  | .PP => 3
  | .WRSR1 | .WRSR1W => 4
  | .WRSR2 => 5

theorem row_id_eq_commandIds_get (c : Cfg) (m : Mnemonic) :
    (row c m).id = c.commandIds.get m.idSlot := by
  cases m <;> rfl

/-- Rows of a well-formed configuration have the same id exactly when the table names one id for both. -/
theorem row_id_eq_iff {c : Cfg} (h : c.wf = true) {m m' : Mnemonic} :
    (row c m).id = (row c m').id ↔ m.idSlot = m'.idSlot := by
  rw [row_id_eq_commandIds_get, row_id_eq_commandIds_get]
  exact (Cfg.commandIds_nodup_of_wf h).get_inj_iff

/-- Two rows of one id are the same row, or the two status writes of one and of two bytes. -/
theorem Mnemonic.idSlot_eq_cases {m m' : Mnemonic} (h : m.idSlot = m'.idSlot) :
    m = m' ∨ (m = .WRSR1 ∧ m' = .WRSR1W) ∨ (m = .WRSR1W ∧ m' = .WRSR1) := by
  revert h
  cases m <;> cases m' <;> decide

/-- LENGTH separates the two rows of one id (R105, R106). -/
theorem not_lengthAllowed_WRSR1_and_WRSR1W {l : Byte} (h : lengthAllowed .WRSR1 l = true)
    (hw : lengthAllowed .WRSR1W l = true) : False := by
  simp only [lengthAllowed, beq_iff_eq] at h hw
  exact absurd (h.symm.trans hw) (by decide)

/-- What a row asks of the decoded fields (R115). -/
theorem rowMatches_iff {c : Cfg} {f : Fields} {m : Mnemonic} :
    rowMatches c f m = true ↔ f.act = true ∧ f.poll = (row c m).poll ∧ lengthAllowed m f.len = true ∧
      f.addr = (row c m).hasAddr ∧ f.wr = (row c m).hasWr ∧ f.data = (row c m).hasData ∧
      f.id = (row c m).id := by
  simp only [rowMatches, Bool.and_eq_true, beq_iff_eq, and_assoc]

/-- Settles O5: the id leaves one row, or WRSR1 and WRSR1W, which no LENGTH satisfies together. -/
theorem rowsDoNotOverlap : Obligations.RowsDoNotOverlap := by
  intro c f m m' hwf hm hm'
  obtain ⟨-, -, hlen, -, -, -, hid⟩ := rowMatches_iff.mp hm
  obtain ⟨-, -, hlen', -, -, -, hid'⟩ := rowMatches_iff.mp hm'
  have hslot : m.idSlot = m'.idSlot := (row_id_eq_iff hwf).mp (hid.symm.trans hid')
  obtain heq | ⟨rfl, rfl⟩ | ⟨rfl, rfl⟩ := Mnemonic.idSlot_eq_cases hslot
  · exact heq
  · exact (not_lengthAllowed_WRSR1_and_WRSR1W hlen hlen').elim
  · exact (not_lengthAllowed_WRSR1_and_WRSR1W hlen' hlen).elim

end Sys2Proof
end

section
/-! PROOFS. What a transaction, a phase of an instruction and the manufacturer step leave alone, each said
once: the engine's frame, the registers an instruction's step can change, the command in flight. -/
namespace Sys2Proof.Machine

@[simp] theorem Instr.ins_payload (c : Cfg) (i : Instr) : (i.ins c).payload = i.payload := rfl

/-! ### One transaction -/

/-- What one register transaction leaves alone: the engine's own registers, the chip state, the host. -/
structure Transacted (s t : State) : Prop where
  cfg : t.cfg = s.cfg
  ph : t.ph = s.ph
  q : t.q = s.q
  k : t.k = s.k
  cnt : t.cnt = s.cnt
  res : t.res = s.res
  req : t.req = s.req
  tainted : t.tainted = s.tainted
  probed : t.probed = s.probed
  sectorSize : t.sectorSize = s.sectorSize
  flashSize : t.flashSize = s.flashSize
  sectors : t.sectors = s.sectors
  cacheOn : t.cacheOn = s.cacheOn
  host : t.host = s.host

theorem transacted_writeReg (r : Reg) (v : Word) (s : State) : Transacted s (s.writeReg r v).2 := by
  constructor <;> simp

theorem transacted_readReg (r : Reg) (s : State) : Transacted s (s.readReg r).2.2 := by
  constructor <;> simp

theorem snd_of_writeReg {r : Reg} {v : Word} {s s1 : State} {b : Bool} (h : s.writeReg r v = (b, s1)) :
    s1 = (s.writeReg r v).2 := by
  rw [h]

theorem snd_of_readReg {r : Reg} {s s1 : State} {b : Bool} {v : Word} (h : s.readReg r = (b, v, s1)) :
    s1 = (s.readReg r).2.2 := by
  rw [h]

/-- A write to a register other than the command register issues nothing. -/
theorem writeReg_issued_plain {r : Reg} (h : r ≠ .cmd) (v : Word) (s : State) :
    (s.writeReg r v).2.issued = s.issued := by
  unfold State.writeReg
  rw [State.lost_plain h, State.landed_plain h, State.landed_plain h]
  split
  · split <;> rfl
  · rfl

/-- The command in flight ends, or there was none whose end is known (R43). -/
theorem complete_flight_cases (s : State) : s.complete.flight = s.flight ∨ s.complete.flight = .clear := by
  unfold State.complete
  split
  · exact .inr rfl
  · exact .inr rfl
  · exact .inl rfl
  · exact .inl rfl

/-- A read leaves the command in flight, or ends it (R80). -/
theorem readReg_flight_cases (r : Reg) (s : State) :
    (s.readReg r).2.2.flight = s.flight ∨ (s.readReg r).2.2.flight = .clear := by
  unfold State.readReg
  split
  · split <;> exact .inl rfl
  · unfold State.tickBusy
    split
    · dsimp only
      split
      · exact complete_flight_cases { s with env := _ }
      · exact .inl rfl
    · exact .inl rfl

/-- A word that reaches the command register starts what the controller decodes or nothing: the flight is
never in doubt (R67, R81). -/
theorem trigger_flight_ne_doubtful {s : State} (h : ∀ u, s.flight ≠ .doubtful u) (w u : Word) :
    (s.trigger w).flight ≠ .doubtful u := by
  unfold State.trigger
  split
  · split
    · exact h u
    · rename_i hf
      simp only [State.startBusy_flight]
      unfold State.flightOf
      split
      · simp
      · split <;> simp
  · exact h u

/-- A write of the command register that answers ok leaves no doubtful flight (R81). -/
theorem writeReg_cmd_flight_ne_doubtful {v : Word} {s s1 : State} (h : s.writeReg .cmd v = (true, s1))
    (hf : ∀ u, s.flight ≠ .doubtful u) (u : Word) : s1.flight ≠ .doubtful u := by
  unfold State.writeReg at h
  split at h
  · split at h
    · cases h
      exact trigger_flight_ne_doubtful (s := s.popAnswer.putReg .cmd v) hf v u
    · cases h
  · cases h
    exact trigger_flight_ne_doubtful (s := s.putReg .cmd v) hf v u

/-! ### The end of an instruction -/

/-- The last instruction ends the operation; after any other the next element begins (R185). -/
theorem finishHead_cases (s : State) :
    (s.q.tail = [] ∧ s.finishHead = ({ s.complete with q := s.q.tail } : State).succeed) ∨
    (s.q.tail ≠ [] ∧ s.finishHead = ({ s.complete with q := s.q.tail } : State).begin) := by
  unfold State.finishHead
  cases h : s.q.tail with
  | nil => exact .inl ⟨rfl, rfl⟩
  | cons e es => exact .inr ⟨by simp, rfl⟩

/-! ### The engine's frame -/

/-- What no step of the engine changes between acceptance and collection. -/
structure EngineFrame (s t : State) : Prop where
  cfg : t.cfg = s.cfg
  probed : t.probed = s.probed
  sectorSize : t.sectorSize = s.sectorSize
  flashSize : t.flashSize = s.flashSize
  prot : t.sectors.map Sector.prot = s.sectors.map Sector.prot
  req : t.req = s.req
  host : t.host = s.host
  cacheOn : t.cacheOn = s.cacheOn
  tainted : s.tainted = true → t.tainted = true
  untilDone : t.ph ≠ .done → t.sectors = s.sectors ∧ t.res = s.res

/-- Sectors keep their number. -/
theorem EngineFrame.length_sectors {s t : State} (h : EngineFrame s t) :
    t.sectors.length = s.sectors.length := by
  simpa using congrArg List.length h.prot

/-- A transaction and then an abort (R310). -/
theorem Transacted.frame_raise {s s1 : State} (h : Transacted s s1) (f : Res) :
    EngineFrame s (s1.raise f) where
  cfg := h.cfg
  probed := h.probed
  sectorSize := h.sectorSize
  flashSize := h.flashSize
  prot := by rw [State.raise_sectors, prot_sectorsAfter, h.sectors]
  req := h.req
  host := h.host
  cacheOn := h.cacheOn
  tainted ht := by simp [h.tainted, ht]
  untilDone hd := absurd rfl hd

/-- A transaction and then a change of phase and counters. -/
theorem Transacted.frame_counters {s s1 : State} (h : Transacted s s1) (p : Phase) (k n : Nat) :
    EngineFrame s { s1 with ph := p, k := k, cnt := n } where
  cfg := h.cfg
  probed := h.probed
  sectorSize := h.sectorSize
  flashSize := h.flashSize
  prot := by rw [h.sectors]
  req := h.req
  host := h.host
  cacheOn := h.cacheOn
  tainted ht := by simp [h.tainted, ht]
  untilDone _ := ⟨h.sectors, h.res⟩

/-- A transaction and then one more poll (R164). -/
theorem Transacted.frame_pollAgain {s s1 : State} (h : Transacted s s1) (pk : Signal) :
    EngineFrame s (s1.pollAgain pk) where
  cfg := h.cfg
  probed := h.probed
  sectorSize := h.sectorSize
  flashSize := h.flashSize
  prot := by rw [State.pollAgain_sectors, h.sectors]
  req := h.req
  host := h.host
  cacheOn := h.cacheOn
  tainted ht := by simp [h.tainted, ht]
  untilDone _ := ⟨h.sectors, h.res⟩

/-- A transaction and then the beginning of a queue (R181). -/
theorem Transacted.frame_start {s s1 : State} (h : Transacted s s1) (es : List Elem) :
    EngineFrame s (s1.start es) := by
  constructor <;> simp +contextual [State.start, h.cfg, h.probed, h.sectorSize, h.flashSize, h.sectors,
    h.req, h.host, h.cacheOn, h.tainted, h.res]

/-- A transaction and then the end of the head of the queue (R185). -/
theorem Transacted.frame_finishHead {s s1 : State} (h : Transacted s s1) :
    EngineFrame s s1.finishHead where
  cfg := by rw [State.finishHead_cfg, h.cfg]
  probed := by rw [State.finishHead_probed, h.probed]
  sectorSize := by rw [State.finishHead_sectorSize, h.sectorSize]
  flashSize := by rw [State.finishHead_flashSize, h.flashSize]
  prot := by
    obtain ⟨-, he⟩ | ⟨-, he⟩ := finishHead_cases s1 <;> rw [he]
    · simp [prot_sectorsAfter, h.sectors]
    · simp [h.sectors]
  req := by rw [State.finishHead_req, h.req]
  host := by rw [State.finishHead_host, h.host]
  cacheOn := by rw [State.finishHead_cacheOn, h.cacheOn]
  tainted ht := by rw [State.finishHead_tainted, h.tainted, ht]
  untilDone hd := by
    obtain ⟨-, he⟩ | ⟨-, he⟩ := finishHead_cases s1 <;> rw [he] at hd ⊢
    · exact absurd rfl hd
    · simp [h.sectors, h.res]

theorem frame_addrStep (d : Ins) (s : State) : EngineFrame s (s.addrStep d) := by
  have hw := transacted_writeReg .addr d.addr s
  obtain ⟨s1, h, he⟩ | ⟨s1, h, ⟨-, he⟩ | ⟨-, he⟩⟩ := addrStep_cases d s <;>
    rw [he] <;> obtain rfl := snd_of_writeReg h
  · exact hw.frame_raise _
  · exact hw.frame_counters _ _ _
  · exact hw.frame_counters _ _ _

theorem frame_bufStep (d : Ins) (w : Word) (s : State) : EngineFrame s (s.bufStep d w) := by
  have hw := transacted_writeReg (.buf s.k) w s
  obtain ⟨s1, h, he⟩ | ⟨s1, h, ⟨-, he⟩ | ⟨-, he⟩⟩ := bufStep_cases d w s <;>
    rw [he] <;> obtain rfl := snd_of_writeReg h
  · exact hw.frame_raise _
  · exact hw.frame_counters _ _ _
  · exact hw.frame_counters _ _ _

theorem frame_issueStep (d : Ins) (s : State) : EngineFrame s (s.issueStep d) := by
  have hw := transacted_writeReg .cmd (encIns s.cfg d) s
  obtain ⟨s1, h, he⟩ | ⟨s1, h, he⟩ := issueStep_cases d s <;>
    rw [he] <;> obtain rfl := snd_of_writeReg h
  · exact hw.frame_raise _
  · exact hw.frame_counters _ _ _

theorem transacted_refl (s : State) : Transacted s s := by
  constructor <;> rfl

theorem frame_waitStep (pk : Signal) (n : Nat) (s : State) : EngineFrame s (s.waitStep pk n) := by
  have hr := transacted_readReg (pollReg pk) s
  obtain ⟨-, he⟩ | ⟨-, v, s1, h, he⟩ | ⟨-, v, s1, h, ⟨-, he⟩ | ⟨-, he⟩⟩ :=
      waitStep_cases pk n s <;>
    rw [he]
  · exact (transacted_refl s).frame_raise _
  · obtain rfl := snd_of_readReg h; exact hr.frame_raise _
  · obtain rfl := snd_of_readReg h; exact hr.frame_pollAgain pk
  · obtain rfl := snd_of_readReg h; exact hr.frame_finishHead

/-- The manufacturer step fails, or goes on with the continuation of a bucket (R243). -/
theorem mfrRead_cases (s : State) :
    s.mfrRead = (s.readReg (mfrReg s.cfg)).2.2.raise .transport ∨
    ∃ b, s.mfrRead = (s.readReg (mfrReg s.cfg)).2.2.start (continuation s.req b) := by
  unfold State.mfrRead
  rcases h : s.readReg (mfrReg s.cfg) with ⟨ok, v, s1⟩
  cases ok
  · exact .inl rfl
  · exact .inr ⟨bucketOf s.cfg (byteAt v s.cfg.mfrLsb), rfl⟩

theorem frame_mfrRead (s : State) : EngineFrame s s.mfrRead := by
  have hr := transacted_readReg (mfrReg s.cfg) s
  obtain he | ⟨b, he⟩ := mfrRead_cases s <;> rw [he]
  · exact hr.frame_raise _
  · exact hr.frame_start _

/-- No step of an instruction leaves the engine's frame. -/
theorem frame_exec {i : Instr} {s t : State} (h : exec i s = .next t) : EngineFrame s t := by
  obtain ⟨-, -, rfl⟩ | ⟨-, -, rfl⟩ | ⟨-, -, rfl⟩ | ⟨-, rfl⟩ := exec_cases h
  · exact frame_addrStep _ _
  · exact frame_bufStep _ _ _
  · exact frame_issueStep _ _
  · exact frame_waitStep _ _ _

/-! ### The controller while an instruction runs -/

/-- What the rest of a step leaves of the hardware after its transaction, where no command completes. -/
structure SameHardware (s t : State) : Prop where
  regs : t.regs = s.regs
  flight : t.flight = s.flight
  issued : t.issued = s.issued
  dev : t.dev = s.dev

theorem addrStep_sameHardware (d : Ins) (s : State) :
    SameHardware (s.writeReg .addr d.addr).2 (s.addrStep d) := by
  obtain ⟨s1, h, he⟩ | ⟨s1, h, ⟨-, he⟩ | ⟨-, he⟩⟩ := addrStep_cases d s <;>
    (rw [he, h]; exact ⟨rfl, rfl, rfl, rfl⟩)

theorem bufStep_sameHardware (d : Ins) (w : Word) (s : State) :
    SameHardware (s.writeReg (.buf s.k) w).2 (s.bufStep d w) := by
  obtain ⟨s1, h, he⟩ | ⟨s1, h, ⟨-, he⟩ | ⟨-, he⟩⟩ := bufStep_cases d w s <;>
    (rw [he, h]; exact ⟨rfl, rfl, rfl, rfl⟩)

theorem issueStep_sameHardware (d : Ins) (s : State) :
    SameHardware (s.writeReg .cmd (encIns s.cfg d)).2 (s.issueStep d) := by
  obtain ⟨s1, h, he⟩ | ⟨s1, h, he⟩ := issueStep_cases d s <;>
    (rw [he, h]; exact ⟨rfl, rfl, rfl, rfl⟩)

@[simp] theorem addrStep_cnt (d : Ins) (s : State) : (s.addrStep d).cnt = s.cnt := by
  obtain ⟨s1, h, he⟩ | ⟨s1, h, ⟨-, he⟩ | ⟨-, he⟩⟩ := addrStep_cases d s <;>
    (rw [he, snd_of_writeReg h]; exact State.writeReg_cnt _ _ s)

@[simp] theorem bufStep_cnt (d : Ins) (w : Word) (s : State) : (s.bufStep d w).cnt = s.cnt := by
  obtain ⟨s1, h, he⟩ | ⟨s1, h, ⟨-, he⟩ | ⟨-, he⟩⟩ := bufStep_cases d w s <;>
    (rw [he, snd_of_writeReg h]; exact State.writeReg_cnt _ _ s)

theorem waitStep_regs (pk : Signal) (n : Nat) (s : State) :
    (s.waitStep pk n).regs = s.regs ∨ (s.waitStep pk n).regs = (s.readReg (pollReg pk)).2.2.regs := by
  obtain ⟨-, he⟩ | ⟨-, v, s1, h, he⟩ | ⟨-, v, s1, h, ⟨-, he⟩ | ⟨-, he⟩⟩ :=
      waitStep_cases pk n s <;>
    rw [he]
  · exact .inl rfl
  · rw [h]; exact .inr rfl
  · rw [h]; exact .inr rfl
  · rw [h]; exact .inr (State.finishHead_regs s1)

/-- A poll reads the command or the status register, and can change no other (R163, R80). -/
theorem readReg_pollReg_regs (pk : Signal) (s : State) :
    ∃ a b, (s.readReg (pollReg pk)).2.2.regs = { s.regs with cmd := a, status := b } := by
  obtain h | ⟨v, h⟩ | ⟨-, a, b, h⟩ := readReg_regs (pollReg pk) s
  · exact ⟨s.regs.cmd, s.regs.status, h⟩
  · cases pk
    · exact ⟨v, s.regs.status, h⟩
    · exact ⟨s.regs.cmd, v, h⟩
  · exact ⟨a, b, h⟩

/-- The registers a step of an instruction can change: the address register in ADDR, `buffer[k]` in BUF,
the command and status registers in ISSUE and WAIT. -/
theorem exec_regs {i : Instr} {s t : State} (h : exec i s = .next t) :
    (s.ph = .addr ∧ (i.ins s.cfg).hasAddr = true ∧ ∃ u, t.regs = s.regs.put u .addr) ∨
    (s.ph = .buf ∧ s.k < divUp i.payload.length 4 ∧ ∃ u, t.regs = s.regs.put u (.buf s.k)) ∨
    ((s.ph = .issue ∨ s.ph = .wait) ∧ ∃ a b, t.regs = { s.regs with cmd := a, status := b }) := by
  obtain ⟨hp, ha, rfl⟩ | ⟨hp, hk, rfl⟩ | ⟨hp, -, rfl⟩ | ⟨hp, rfl⟩ := exec_cases h
  · rw [(addrStep_sameHardware _ s).regs]
    exact .inl ⟨hp, ha, writeReg_regs_plain (by simp) _ s⟩
  · rw [(bufStep_sameHardware _ _ s).regs]
    exact .inr (.inl ⟨hp, hk, writeReg_regs_plain (by simp) _ s⟩)
  · rw [(issueStep_sameHardware _ s).regs]
    exact .inr (.inr ⟨.inl hp, writeReg_regs_cmd _ s⟩)
  · refine .inr (.inr ⟨.inr hp, ?_⟩)
    obtain hr | hr := waitStep_regs (i.ins s.cfg).pk (i.ins s.cfg).timeout s <;> rw [hr]
    · exact ⟨s.regs.cmd, s.regs.status, rfl⟩
    · exact readReg_pollReg_regs _ s

/-- While the operands are written no command is issued or ends, and the poll count stands (R182, R183). -/
theorem exec_operands {i : Instr} {s t : State} (h : exec i s = .next t) (hp : s.ph = .addr ∨ s.ph = .buf) :
    t.flight = s.flight ∧ t.cnt = s.cnt ∧ t.issued = s.issued := by
  obtain ⟨-, -, rfl⟩ | ⟨-, -, rfl⟩ | ⟨hi, -⟩ | ⟨hi, -⟩ := exec_cases h
  · have hw := addrStep_sameHardware (i.ins s.cfg) s
    rw [hw.flight, hw.issued]
    exact ⟨State.writeReg_flight (by simp) _ s, addrStep_cnt _ s, writeReg_issued_plain (by simp) _ s⟩
  · have hw := bufStep_sameHardware (i.ins s.cfg) (stageWord i.payload s.k) s
    rw [hw.flight, hw.issued]
    exact ⟨State.writeReg_flight (by simp) _ s, bufStep_cnt _ _ s, writeReg_issued_plain (by simp) _ s⟩
  · simp [hi] at hp
  · simp [hi] at hp

/-! ### The statements about one instruction -/

/-- Settles O21, from the engine's frame and the registers an instruction's step can change. -/
theorem instructionFrame : Obligations.InstructionFrame := by
  intro i s t h
  have hf := frame_exec h
  have hplain : t.regs.cfg = s.regs.cfg ∧ t.regs.cache = s.regs.cache ∧ t.regs.id = s.regs.id ∧
      (s.ph = .addr ∨ s.ph = .buf → t.regs.cmd = s.regs.cmd ∧ t.regs.status = s.regs.status) := by
    obtain ⟨-, -, u, hr⟩ | ⟨-, -, u, hr⟩ | ⟨hp, a, b, hr⟩ := exec_regs h <;> rw [hr]
    · exact ⟨rfl, rfl, rfl, fun _ => ⟨rfl, rfl⟩⟩
    · exact ⟨rfl, rfl, rfl, fun _ => ⟨rfl, rfl⟩⟩
    · refine ⟨rfl, rfl, rfl, fun hq => ?_⟩
      obtain hp | hp := hp <;> simp [hp] at hq
  obtain ⟨hcfg, hcache, hid, hcmd⟩ := hplain
  refine ⟨hf.cfg, hf.probed, hf.sectorSize, hf.flashSize, hf.prot, hf.req, hf.host, hf.cacheOn,
    hcfg, hcache, hid, hf.untilDone, fun hp => ?_⟩
  obtain ⟨hc, hs⟩ := hcmd hp
  obtain ⟨hfl, hcnt, hiss⟩ := exec_operands h hp
  exact ⟨hc, hs, hfl, hcnt, hiss⟩

/-- An instruction without an address operand never writes the address register (R36). -/
theorem exec_regs_addr {i : Instr} {s t : State} (h : exec i s = .next t)
    (hi : (i.ins s.cfg).hasAddr = false) : t.regs.addr = s.regs.addr := by
  obtain ⟨-, ha, -⟩ | ⟨-, -, u, hr⟩ | ⟨-, a, b, hr⟩ := exec_regs h
  · simp [hi] at ha
  · rw [hr]; rfl
  · rw [hr]

/-- An instruction without a payload never writes a buffer register (R37). -/
theorem exec_regs_buf {i : Instr} {s t : State} (h : exec i s = .next t) (hi : i.payload = []) :
    t.regs.buf = s.regs.buf := by
  obtain ⟨-, -, u, hr⟩ | ⟨-, hk, -⟩ | ⟨-, a, b, hr⟩ := exec_regs h
  · rw [hr]; rfl
  · simp [hi, divUp] at hk
  · rw [hr]

/-- No instruction writes a buffer register beyond its payload's words (R37, R228). -/
theorem exec_regs_buf_beyond {i : Instr} {s t : State} (h : exec i s = .next t) {k : Nat}
    (hk : divUp i.payload.length 4 ≤ k) : t.regs.buf[k]? = s.regs.buf[k]? := by
  obtain ⟨-, -, u, hr⟩ | ⟨-, hlt, u, hr⟩ | ⟨-, a, b, hr⟩ := exec_regs h <;> rw [hr]
  · rfl
  · exact Vector.getElem?_setIfInBounds_ne (by omega)

/-- Settles O22, operand by operand. -/
theorem operandRegisterFrame : Obligations.OperandRegisterFrame := by
  intro s t
  refine ⟨fun i hi h => exec_regs_addr h ?_, fun i hi h => exec_regs_buf h ?_,
    fun i k h hk => exec_regs_buf_beyond h hk⟩
  · obtain rfl | rfl | ⟨b, rfl⟩ | ⟨b, rfl⟩ | ⟨b0, b1, rfl⟩ := hi <;> rfl
  · obtain rfl | rfl | ⟨a, rfl⟩ := hi <;> rfl

end Sys2Proof.Machine
end

section
/-! PROOFS. What acceptance and the host's moves can do, said once, and from that what the machine's step
keeps: `tainted`, `probed`, the `protected` flags, the device outside WAIT (R27, R29, R43, R72, R314). -/
namespace Sys2Proof.Machine

/-! ### Acceptance -/

@[simp] theorem State.start_q (es : List Elem) (s : State) : (s.start es).q = es := by
  simp [State.start]

@[simp] theorem State.start_flight (es : List Elem) (s : State) : (s.start es).flight = s.flight := by
  simp [State.start]

@[simp] theorem State.start_dev (es : List Elem) (s : State) : (s.start es).dev = s.dev := by
  simp [State.start]

/-- A request latched, its trace empty: where acceptance begins (R180). -/
def State.latch (r : Request) (s : State) : State := { s with req := r, trace := [] }

/-- Acceptance asks that `tainted` is clear; then a test of R308 refuses the request, its expansion is
begun, or it is answered at once (R180, R140, R141). -/
theorem accept_cases {r : Request} {s t : State} (h : accept r s = .next t) :
    s.tainted = false ∧
    ((∃ c, t = (s.latch r).raise (.protocol c)) ∨
      (s.refusalCause r = none ∧ expansion s.cfg r ≠ [] ∧ t = (s.latch r).start (expansion s.cfg r)) ∨
      (∃ w ws, t = (s.latch r).returned w ws)) := by
  unfold accept at h
  dsimp only at h
  split at h
  · cases h
  · rename_i ht
    refine ⟨by simpa using ht, ?_⟩
    split at h
    · cases h
      exact .inl ⟨_, rfl⟩
    · rename_i hc
      split at h
      · have begun (he : expansion s.cfg r ≠ []) (h : Host.Outcome.next (φ := Fault) (ρ := Refusal)
            ((s.latch r).start (expansion s.cfg r)) = .next t) :
            s.refusalCause r = none ∧ expansion s.cfg r ≠ [] ∧
              t = (s.latch r).start (expansion s.cfg r) := by
          cases h
          exact ⟨hc, he, rfl⟩
        cases r with
        | encode => cases h; exact .inr (.inr ⟨_, _, rfl⟩)
        | stage => cases h; exact .inr (.inr ⟨_, _, rfl⟩)
        | pageProgram a p =>
          refine .inr (.inl (begun ?_ h))
          simp only [expansion]
          split <;> simp
        | _ => exact .inr (.inl (begun (by simp [expansion]) h))
      · cases h

/-- While `tainted` is set no request is accepted (R27, log 13). -/
theorem accept_of_tainted (r : Request) {s : State} (h : s.tainted = true) :
    accept r s = .refused .whileTainted := by
  simp [accept, h]

/-- Acceptance changes nothing of the chip state, the controller or the device. -/
structure Accepted (s t : State) : Prop where
  cfg : t.cfg = s.cfg
  tainted : t.tainted = s.tainted
  probed : t.probed = s.probed
  sectorSize : t.sectorSize = s.sectorSize
  flashSize : t.flashSize = s.flashSize
  sectors : t.sectors = s.sectors
  flight : t.flight = s.flight
  dev : t.dev = s.dev
  moves : t.host.moves = s.host.moves

theorem accepted_of_accept {r : Request} {s t : State} (h : accept r s = .next t) : Accepted s t := by
  obtain ⟨-, ⟨c, rfl⟩ | ⟨-, -, rfl⟩ | ⟨w, ws, rfl⟩⟩ := accept_cases h
  · constructor <;> simp [State.latch, State.sectorsAfter, taints]
  · constructor <;> simp [State.latch, State.start]
  · constructor <;> rfl

/-! ### The host's moves -/

/-- What no move of the host but the submission of a request changes: the engine, the command in flight,
the device. -/
structure EngineIdle (s t : State) : Prop where
  cfg : t.cfg = s.cfg
  ph : t.ph = s.ph
  q : t.q = s.q
  tainted : t.tainted = s.tainted
  flight : t.flight = s.flight
  dev : t.dev = s.dev

/-- What probe alone changes (R285): the geometry, the sector array, `probed`. -/
structure BankKept (s t : State) : Prop where
  probed : t.probed = s.probed
  sectorSize : t.sectorSize = s.sectorSize
  flashSize : t.flashSize = s.flashSize
  sectors : t.sectors = s.sectors

/-- A read of a register that is not polled counts no command down (R80). -/
theorem readReg_id_idle (s : State) : EngineIdle s (s.readReg .id).2.2 := by
  unfold State.readReg
  split
  · split <;> constructor <;> rfl
  · have htick : s.tickBusy .id = s := by simp [State.tickBusy]
    rw [htick]
    constructor <;> rfl

/-- The version read ends the call, or allocates the sector array of a record of the table (R285). -/
theorem readVersion_cases (s : State) :
    EngineIdle s s.readVersion ∧ s.readVersion.probed = s.probed ∧
    ((BankKept s s.readVersion ∧ s.readVersion.host.moves = []) ∨
      ∃ d ∈ s.cfg.deviceTable, s.readVersion.sectorSize = d.sectorKB * 1024 ∧
        s.readVersion.flashSize = d.flashKB * 1024 ∧
        s.readVersion.sectors.length = d.flashKB * 1024 / (d.sectorKB * 1024)) := by
  have hi := readReg_id_idle s
  have hr := transacted_readReg .id s
  unfold State.readVersion
  rcases h : s.readReg .id with ⟨ok, v, s1⟩
  rw [h] at hi hr
  have returned : ∀ r, EngineIdle s (s1.hostReturn r) ∧ (s1.hostReturn r).probed = s.probed ∧
      BankKept s (s1.hostReturn r) := fun r =>
    ⟨⟨hi.cfg, hi.ph, hi.q, hi.tainted, hi.flight, hi.dev⟩, hr.probed,
      ⟨hr.probed, hr.sectorSize, hr.flashSize, hr.sectors⟩⟩
  cases ok
  · obtain ⟨hidle, hprobed, hbank⟩ := returned .transport
    exact ⟨hidle, hprobed, .inl ⟨hbank, rfl⟩⟩
  · dsimp only
    split
    · obtain ⟨hidle, hprobed, hbank⟩ := returned (.protocol .notProbed)
      exact ⟨hidle, hprobed, .inl ⟨hbank, rfl⟩⟩
    · rename_i d hd
      exact ⟨⟨hi.cfg, hi.ph, hi.q, hi.tainted, hi.flight, hi.dev⟩, hr.probed, .inr
        ⟨d, List.mem_of_find?_eq_some hd, rfl, rfl, by simp⟩⟩

/-- What is submitted at an offset is never the last move of a probe. -/
theorem submitAt_ne_setProbed (off : Nat) (r : Word → Request) : submitAt off r ≠ .setProbed := by
  obtain ⟨-, h⟩ | ⟨-, h⟩ := submitAt_cases off r <;> simp [h]

theorem setProbed_not_mem_eraseCall (s : State) (f l : Nat) : Move.setProbed ∉ s.eraseCall f l := by
  simp [State.eraseCall, submitAt_ne_setProbed]

theorem setProbed_not_mem_programMoves (chunk start : Nat) (b : List Byte) :
    Move.setProbed ∉ programMoves chunk start b := by
  simp [programMoves, submitAt_ne_setProbed]

theorem setProbed_not_mem_writeMoves (policy : ErasePolicy) (size : Nat) (b : List Byte) (off n : Nat) :
    Move.setProbed ∉ writeMoves policy size b off n := by
  have hfringe : ∀ start len, Move.setProbed ∉ fringeMove start len := by
    intro start len
    unfold fringeMove
    split <;> simp
  have herase : Move.setProbed ∉ eraseMoves policy size off n := by
    cases policy <;> simp [eraseMoves, submitAt_ne_setProbed]
  simp [writeMoves, hfringe, herase]

/-- What no step of the host but a submission and two moves of probe changes; it plans the last move of a
probe only together with the first. -/
structure HostOnly (s t : State) : Prop where
  idle : EngineIdle s t
  bank : BankKept s t
  moves : .setProbed ∈ t.host.moves → .setProbed ∈ s.host.moves ∨ t.host.moves.head? = some .readId

/-- A register write of probe changes its register and whether the read cache is on; failing, it ends the
call. -/
theorem hostOnly_poke {r : Reg} (hr : r ≠ .cmd) (w : Word) (on lost : Bool) (s : State) :
    HostOnly s (s.poke r w on lost) := by
  have hw := transacted_writeReg r w s
  have hd := State.writeReg_dev r w s
  have hf := State.writeReg_flight hr w s
  unfold State.poke
  rcases h : s.writeReg r w with ⟨ok, s1⟩
  rw [h] at hw hd hf
  cases ok
  · exact ⟨⟨hw.cfg, hw.ph, hw.q, hw.tainted, hf, hd⟩,
      ⟨hw.probed, hw.sectorSize, hw.flashSize, hw.sectors⟩, by simp⟩
  · exact ⟨⟨hw.cfg, hw.ph, hw.q, hw.tainted, hf, hd⟩,
      ⟨hw.probed, hw.sectorSize, hw.flashSize, hw.sectors⟩, fun hm => .inl (by rwa [← hw.host])⟩

/-- A call or a move that touches the host's own state and the draws only. -/
theorem hostOnly_of_eq {s t : State} (e : Env) (c : HostCtx) (tr : List Txn)
    (h : t = { s with env := e, host := c, trace := tr })
    (hm : .setProbed ∈ c.moves → .setProbed ∈ s.host.moves ∨ c.moves.head? = some .readId) :
    HostOnly s t := by
  subst h
  exact ⟨⟨rfl, rfl, rfl, rfl, rfl, rfl⟩, ⟨rfl, rfl, rfl, rfl⟩, hm⟩

theorem hostOnly_hostReturn (r : Res) (s : State) : HostOnly s (s.hostReturn r) :=
  hostOnly_of_eq _ _ _ rfl (by simp)

theorem hostOnly_readFringe (start len : Nat) (s : State) : HostOnly s (s.readFringe start len) := by
  unfold State.readFringe State.hostPop
  cases s.env.mode <;> dsimp only <;> split
  all_goals exact hostOnly_of_eq _ _ _ rfl (by simp +contextual)

theorem hostOnly_slowPath (start : Nat) (s : State) : HostOnly s (s.slowPath start) :=
  hostOnly_of_eq _ _ _ rfl (by simp +contextual [setProbed_not_mem_programMoves])

theorem hostOnly_transferStep {start : Nat} {s t : State} (h : transferStep start s = .next t) :
    HostOnly s t := by
  unfold transferStep at h
  split at h
  · split at h <;> cases h
    exact hostOnly_of_eq _ _ _ rfl (by simp +contextual [setProbed_not_mem_programMoves])
  · cases h
    exact hostOnly_slowPath start s

theorem hostOnly_fringeStep {start len : Nat} {s t : State} (h : fringeStep start len s = .next t) :
    HostOnly s t := by
  unfold fringeStep at h
  split at h
  · cases h
  · split at h <;> cases h
    exact hostOnly_readFringe start len s

theorem hostOnly_beginWrite (b : List Byte) (off n : Nat) (s : State) :
    HostOnly s (s.beginWrite b off n) := by
  by_cases hb : b.length = n
  · rw [beginWrite_exact hb]
    exact hostOnly_of_eq _ _ _ rfl (by simp [setProbed_not_mem_writeMoves])
  · rw [beginWrite_free hb]
    exact hostOnly_of_eq _ _ _ rfl (by simp [setProbed_not_mem_writeMoves])

theorem hostOnly_beginProbe (s : State) : HostOnly s s.beginProbe := by
  unfold State.beginProbe
  split
  · exact hostOnly_hostReturn .ok s
  · exact hostOnly_of_eq _ _ _ rfl (fun _ => .inr rfl)

/-- A move that is not made while `tainted` is made when it is clear (R27, R354). -/
theorem next_of_guarded {b : Bool} {o : Host.Outcome State Fault Refusal} {t : State}
    (h : (if b then .refused .whileTainted else o) = .next t) : o = .next t := by
  cases b
  · exact h
  · cases h

/-- A move of the host touches the host only, submits a request, reads the version, or sets `probed`. -/
theorem hostMove_cases {m : Move} {s t : State} (h : hostMove m s = .next t) :
    (m ≠ .readId ∧ HostOnly s t) ∨ (∃ r, m = .submit r ∧ accept r s = .next t) ∨
    (m = .readId ∧ t = s.readVersion) ∨ (m = .setProbed ∧ t = s.setProbed) := by
  cases m with
  | submit r => exact .inr (.inl ⟨r, rfl, h⟩)
  | readId => cases next_of_guarded h; exact .inr (.inr (.inl ⟨rfl, rfl⟩))
  | setProbed => cases h; exact .inr (.inr (.inr ⟨rfl, rfl⟩))
  | cacheOff => cases next_of_guarded h; exact .inl ⟨by simp, hostOnly_poke (by simp) _ _ _ s⟩
  | cacheOn => cases next_of_guarded h; exact .inl ⟨by simp, hostOnly_poke (by simp) _ _ _ s⟩
  | clockConfig => cases next_of_guarded h; exact .inl ⟨by simp, hostOnly_poke (by simp) _ _ _ s⟩
  | fringe a n => exact .inl ⟨by simp, hostOnly_fringeStep (next_of_guarded h)⟩
  | transfer a => exact .inl ⟨by simp, hostOnly_transferStep (next_of_guarded h)⟩
  | copy p => cases h; exact .inl ⟨by simp, hostOnly_of_eq _ _ _ rfl .inl⟩
  | unaddressable => cases h

/-- The beginning of a call submits a request or touches the host only. -/
theorem beginCall_cases {c : Call} {s t : State} (h : beginCall c s = .next t) :
    (∃ r, accept r s = .next t) ∨ HostOnly s t := by
  cases c with
  | request r => exact .inl ⟨r, h⟩
  | massErase => exact .inl ⟨_, h⟩
  | probe => cases h; exact .inr (hostOnly_beginProbe s)
  | autoProbe => cases h; exact .inr (hostOnly_beginProbe s)
  | erase f l =>
    simp only [beginCall] at h
    split at h <;> cases h
    · exact .inr (hostOnly_hostReturn _ s)
    · have hplan := setProbed_not_mem_eraseCall s f l
      exact .inr (hostOnly_of_eq _ _ _ rfl fun hm => absurd hm hplan)
  | write b off n =>
    simp only [beginCall] at h
    split at h
    · cases h; exact .inr (hostOnly_hostReturn _ s)
    · split at h <;> cases h
      exact .inr (hostOnly_beginWrite b off n s)
  | protectCheck => cases h; exact .inr (hostOnly_of_eq _ _ _ rfl (by simp))
  | protect => cases h; exact .inr (hostOnly_of_eq _ _ _ rfl (by simp))
  | getInfo => cases h; exact .inr (hostOnly_of_eq _ _ _ rfl (by simp))

/-- The host takes up its next move, or a call when no move is left. -/
theorem hostAfter_moves (s : State) : s.hostAfter.moves = s.host.moves.tail := by
  unfold State.hostAfter
  split <;> simp [*]

/-- A step of the host, in terms of the state with the move or the call taken up: a request is accepted, a
probe reads the version or sets `probed`, or the host alone is touched. -/
theorem hostStep_inv {s t : State} (h : hostStep s = .next t) :
    (∃ r, s.host.moves.head? ≠ some .readId ∧ accept r { s with host := s.hostAfter } = .next t) ∨
    (s.host.moves.head? = some .readId ∧ t = State.readVersion { s with host := s.hostAfter }) ∨
    (s.host.moves.head? = some .setProbed ∧ t = State.setProbed { s with host := s.hostAfter }) ∨
    (s.host.moves.head? ≠ some .readId ∧ HostOnly { s with host := s.hostAfter } t) := by
  obtain ⟨m, ms, hm, h⟩ | ⟨c, cs, hm, hi, h⟩ | ⟨hm, hi, rfl⟩ := hostStep_cases h
  · have hs : s.hostAfter = { s.host with moves := ms } := by simp [State.hostAfter, hm]
    rw [hs]
    obtain ⟨hne, ht⟩ | ⟨r, rfl, hr⟩ | ⟨rfl, ht⟩ | ⟨rfl, ht⟩ := hostMove_cases h
    · exact .inr (.inr (.inr ⟨by simpa [hm] using hne, ht⟩))
    · exact .inl ⟨r, by simp [hm], hr⟩
    · exact .inr (.inl ⟨by simp [hm], ht⟩)
    · exact .inr (.inr (.inl ⟨by simp [hm], ht⟩))
  · have hs : s.hostAfter = { s.host with inbox := cs } := by simp [State.hostAfter, hm, hi]
    rw [hs]
    obtain ⟨r, hr⟩ | ht := beginCall_cases h
    · exact .inl ⟨r, by simp [hm], hr⟩
    · exact .inr (.inr (.inr ⟨by simp [hm], ht⟩))
  · refine .inr (.inr (.inr ⟨by simp [hm], hostOnly_of_eq t.env t.host t.trace ?_ ?_⟩))
    · rfl
    · simp [hm]

/-! ### The machine's step -/

/-- The engine's part of a step: the manufacturer step, an instruction, a bare poll. -/
theorem step_inv {s t : State} (h : step s = .next t) :
    (s.ph = .idle ∧ hostStep s = .next t) ∨ (s.ph = .done ∧ t = s.collect) ∨
      (engineTurn s ∧ EngineFrame s t) := by
  obtain hh | hc | ⟨hp, -, -, rfl⟩ | ⟨i, es, -, he⟩ | ⟨pk, n, es, -, hp, rfl⟩ :=
    step_cases h
  · exact .inl hh
  · exact .inr (.inl hc)
  · exact .inr (.inr ⟨by simp [engineTurn, hp], frame_mfrRead s⟩)
  · refine .inr (.inr ⟨?_, frame_exec he⟩)
    obtain ⟨hp, -⟩ | ⟨hp, -⟩ | ⟨hp, -⟩ | ⟨hp, -⟩ := exec_cases he <;> simp [engineTurn, hp]
  · exact .inr (.inr ⟨by simp [engineTurn, hp], frame_waitStep pk n s⟩)

/-- Settles O8: in each of the four phases `fetch` answers the instruction at the head. -/
theorem stepRunsTheHead : Obligations.StepRunsTheHead := by
  intro s i es hq hp
  have hfetch : fetch s = .instr i := by
    obtain hp | hp | hp | hp := hp <;> simp [fetch, hp, hq]
  simp [step, hfetch]

/-- Settles O33: every submission is an acceptance, and acceptance asks that `tainted` is clear. -/
theorem taintedRequestsRefused : Obligations.TaintedRequestsRefused := by
  intro r s hsub ht
  rw [hsub.step_eq]
  exact accept_of_tainted r (s := { s with host := s.hostAfter }) ht

/-- Settles O44: the host sets `probed` in one move only, and the engine's frame holds both. -/
theorem taintedAndProbedStay : Obligations.TaintedAndProbedStay := by
  intro s t h
  obtain ⟨hp, hh⟩ | ⟨-, rfl⟩ | ⟨-, hf⟩ := step_inv h
  · obtain ⟨r, -, hr⟩ | ⟨-, rfl⟩ | ⟨hset, rfl⟩ | ⟨-, ho⟩ := hostStep_inv hh
    · have ha := accepted_of_accept hr
      refine ⟨ha.cfg, fun ht => ha.tainted.trans ht, fun hb => ha.probed.trans hb, fun hb hb' => ?_⟩
      exact absurd (hb'.symm.trans (ha.probed.trans hb)) (by simp)
    · obtain ⟨hi, hpr, -⟩ := readVersion_cases { s with host := s.hostAfter }
      refine ⟨hi.cfg, fun ht => hi.tainted.trans ht, fun hb => hpr.trans hb, fun hb hb' => ?_⟩
      exact absurd (hb'.symm.trans (hpr.trans hb)) (by simp)
    · exact ⟨rfl, id, fun _ => rfl, fun _ _ => ⟨hp, hset⟩⟩
    · refine ⟨ho.idle.cfg, fun ht => ho.idle.tainted.trans ht, fun hb => ho.bank.probed.trans hb,
        fun hb hb' => ?_⟩
      exact absurd (hb'.symm.trans (ho.bank.probed.trans hb)) (by simp)
  · exact ⟨rfl, id, id, fun hb hb' => absurd (hb'.symm.trans hb) (by simp)⟩
  · refine ⟨hf.cfg, hf.tainted, fun hb => hf.probed.trans hb, fun hb hb' => ?_⟩
    exact absurd (hb'.symm.trans (hf.probed.trans hb)) (by simp)

/-- Settles O45: the version read is the one move that allocates; every other step keeps the flags. -/
theorem protectedFlagNeverWritten : Obligations.ProtectedFlagNeverWritten := by
  intro s t h hnot
  obtain ⟨hp, hh⟩ | ⟨-, rfl⟩ | ⟨-, hf⟩ := step_inv h
  · obtain ⟨r, -, hr⟩ | ⟨hid, -⟩ | ⟨-, rfl⟩ | ⟨-, ho⟩ := hostStep_inv hh
    · have ha := accepted_of_accept hr
      exact ⟨congrArg _ ha.sectors, ha.sectorSize, ha.flashSize⟩
    · exact absurd ⟨hp, hid⟩ hnot
    · exact ⟨rfl, rfl, rfl⟩
    · exact ⟨congrArg _ ho.bank.sectors, ho.bank.sectorSize, ho.bank.flashSize⟩
  · exact ⟨rfl, rfl, rfl⟩
  · exact ⟨hf.prot, hf.sectorSize, hf.flashSize⟩

/-- No transaction of an instruction but the poll read changes the device (log 9, log 15). -/
theorem exec_dev_of_ne_wait {i : Instr} {s t : State} (h : exec i s = .next t) (hp : s.ph ≠ .wait) :
    t.dev = s.dev := by
  obtain ⟨-, -, rfl⟩ | ⟨-, -, rfl⟩ | ⟨-, -, rfl⟩ | ⟨hw, -⟩ := exec_cases h
  · rw [(addrStep_sameHardware _ s).dev, State.writeReg_dev]
  · rw [(bufStep_sameHardware _ _ s).dev, State.writeReg_dev]
  · rw [(issueStep_sameHardware _ s).dev, State.writeReg_dev]
  · exact absurd hw hp

/-- The manufacturer read leaves the device as the read does (R243). -/
theorem mfrRead_dev (s : State) : s.mfrRead.dev = (s.readReg (mfrReg s.cfg)).2.2.dev := by
  obtain he | ⟨b, he⟩ := mfrRead_cases s <;> simp [he]

/-- No step of the host changes the device. -/
theorem hostStep_dev {s t : State} (h : hostStep s = .next t) : t.dev = s.dev := by
  obtain ⟨r, -, hr⟩ | ⟨-, rfl⟩ | ⟨-, rfl⟩ | ⟨-, ho⟩ := hostStep_inv h
  · exact (accepted_of_accept hr).dev
  · exact (readVersion_cases _).1.dev
  · rfl
  · exact ho.idle.dev

/-- Under the free oracle the device changes in phase WAIT only (log 9, log 15). -/
theorem step_dev_of_ne_wait {s t : State} (hm : s.env.mode = .oracle) (h : step s = .next t)
    (hp : s.ph ≠ .wait) : t.dev = s.dev := by
  obtain ⟨-, hh⟩ | ⟨-, rfl⟩ | ⟨-, -, -, rfl⟩ | ⟨i, es, -, he⟩ | ⟨pk, n, es, -, hw, -⟩ :=
    step_cases h
  · exact hostStep_dev hh
  · rfl
  · rw [mfrRead_dev]
    exact (State.readReg_oracle hm _).1
  · exact exec_dev_of_ne_wait he hp
  · exact absurd hw hp

end Sys2Proof.Machine
end

section
/-! PROOFS. The invariant of the machine (R49): it holds at reset, every step keeps it, and from it an
operation that ends untainted leaves no command in flight. The invariant has two halves: what the state
holds whatever the phase (`StoreOk`), and how phase, queue and flight fit together (`ControlOk`). -/
namespace Sys2Proof.Machine

/-! ### The two halves of the invariant -/

/-- The sizes are those of the sector array, a probed bank has a geometry, and a probe that is to set
`probed` has read one or is about to (R29, R285). -/
structure Geometry (s : State) : Prop where
  length : s.sectors.length = s.flashSize / s.sectorSize
  probed : s.probed = true → 0 < s.sectorSize
  moves : .setProbed ∈ s.host.moves → 0 < s.sectorSize ∨ s.host.moves.head? = some .readId

theorem geometryOk_iff {s : State} : geometryOk s = true ↔ Geometry s := by
  have imp : ∀ (b : Bool) (p : Prop), (b = false ∨ p) ↔ (b = true → p) := by
    intro b p
    cases b <;> simp
  rw [geometryOk, Bool.or_assoc]
  simp only [Bool.and_eq_true, Bool.or_eq_true, decide_eq_true_eq, Bool.not_eq_true', imp,
    List.contains_iff_mem]
  exact ⟨fun ⟨⟨hl, hp⟩, hm⟩ => ⟨hl, hp, hm⟩, fun ⟨hl, hp, hm⟩ => ⟨⟨hl, hp⟩, hm⟩⟩

/-- The half of the invariant that does not speak of the phase. -/
structure StoreOk (s : State) : Prop where
  cfg : s.cfg.wf = true
  geometry : Geometry s
  flash : s.dev.flash.wf s.cfg = true

/-- The half of the invariant that says how phase, queue and flight fit together (R49). -/
structure ControlOk (s : State) : Prop where
  phase : phaseOk s = true
  elems : s.q.all (elemOk s.req) = true
  flight : flightOk s = true

theorem inv_iff {s : State} : Inv s ↔ StoreOk s ∧ ControlOk s := by
  simp only [Inv, geometryOk_iff]
  exact ⟨fun ⟨hc, hp, he, hf, hg, hm⟩ => ⟨⟨hc, hg, hm⟩, ⟨hp, he, hf⟩⟩,
    fun ⟨⟨hc, hg, hm⟩, ⟨hp, he, hf⟩⟩ => ⟨hc, hp, he, hf, hg, hm⟩⟩

/-- Settles O41: at reset the queue, the sector array and the host's moves are empty. -/
theorem invariantAtReset : Obligations.InvariantAtReset := by
  have hreset (c : Cfg) (hc : c.wf = true) : Inv (State.resetWith c) := by
    refine inv_iff.mpr ⟨⟨hc, ?_, Memory.wf_lose c 0⟩, ⟨rfl, rfl, rfl⟩⟩
    constructor <;> simp [State.resetWith]
  exact ⟨hreset, hreset cfgRef (by decide)⟩

/-- Settles O47: each value is the one `State.resetWith` writes. -/
theorem resetValues : Obligations.ResetValues :=
  ⟨fun _ => ⟨rfl, rfl, rfl, rfl, rfl, rfl, rfl, rfl, rfl⟩, rfl⟩

/-! ### Where a state is in control -/

/-- A flight that is none or known (R43). -/
def Flight.known (f : Flight) : Prop := ∀ w, f ≠ .doubtful w

theorem Flight.known_clear : Flight.known .clear := by
  intro w
  simp

/-- An operation has ended: its queue is empty, and a command is left in flight only under `tainted`. -/
theorem controlOk_done {s : State} (hp : s.ph = .done) (hq : s.q = [])
    (hf : s.tainted = true ∨ s.flight = .clear) : ControlOk s :=
  ⟨by simp [phaseOk, hp, hq], by simp [hq], by simpa [flightOk, hp] using hf⟩

theorem controlOk_idle {s : State} (hp : s.ph = .idle) (hq : s.q = [])
    (hf : s.tainted = true ∨ s.flight = .clear) : ControlOk s :=
  ⟨by simp [phaseOk, hp, hq], by simp [hq], by simpa [flightOk, hp] using hf⟩

theorem controlOk_issue {s : State} {i : Instr} {es : List Elem} (hp : s.ph = .issue)
    (hq : s.q = .ins i :: es) (he : s.q.all (elemOk s.req) = true) (hf : s.flight = .clear) :
    ControlOk s :=
  ⟨by simp [phaseOk, hp, hq], he, by simp [flightOk, hp, hf]⟩

theorem controlOk_buf {s : State} {i : Instr} {es : List Elem} (hp : s.ph = .buf)
    (hq : s.q = .ins i :: es) (hk : s.k < divUp i.payload.length 4)
    (he : s.q.all (elemOk s.req) = true) (hf : s.flight = .clear) : ControlOk s :=
  ⟨by simp [phaseOk, hp, hq, hk], he, by simp [flightOk, hp, hf]⟩

theorem controlOk_wait {s : State} {i : Instr} {es : List Elem} (hp : s.ph = .wait)
    (hq : s.q = .ins i :: es) (hn : s.cnt ≤ (i.ins s.cfg).timeout)
    (he : s.q.all (elemOk s.req) = true) (hf : s.flight.known) : ControlOk s := by
  refine ⟨by simp [phaseOk, hp, hq, hn], he, ?_⟩
  cases h : s.flight with
  | doubtful w => exact absurd h (hf w)
  | _ => simp [flightOk, hp, hq, h]

theorem controlOk_poll {s : State} {pk : Signal} {n : Nat} {es : List Elem} (hp : s.ph = .wait)
    (hq : s.q = .poll pk n :: es) (hn : s.cnt ≤ n)
    (he : s.q.all (elemOk s.req) = true) (hf : s.flight = .clear) : ControlOk s :=
  ⟨by simp [phaseOk, hp, hq, hn], he, by simp [flightOk, hp, hq, hf]⟩

theorem controlOk_addr {s : State} {i : Instr} {es : List Elem} (hp : s.ph = .addr)
    (hq : s.q = .ins i :: es) (ha : (i.ins s.cfg).hasAddr = true)
    (he : s.q.all (elemOk s.req) = true) (hf : s.flight = .clear) : ControlOk s :=
  ⟨by simp [phaseOk, hp, hq, ha], he, by simp [flightOk, hp, hf]⟩

theorem controlOk_mfr {s : State} {es : List Elem} (hp : s.ph = .mfr) (hq : s.q = .mfr :: es)
    (he : s.q.all (elemOk s.req) = true) (hf : s.flight = .clear) : ControlOk s :=
  ⟨by simp [phaseOk, hp, hq], he, by simp [flightOk, hp, hf]⟩

/-! ### Beginning an element -/

theorem begin_mfr {s : State} {es : List Elem} (hq : s.q = .mfr :: es) :
    s.begin = { s with ph := .mfr } := by
  simp [State.begin, hq]

theorem begin_poll {s : State} {pk : Signal} {n : Nat} {es : List Elem} (hq : s.q = .poll pk n :: es) :
    s.begin = { s with ph := .wait, cnt := 0 } := by
  simp [State.begin, hq]

theorem begin_addr {s : State} {i : Instr} {es : List Elem} (hq : s.q = .ins i :: es)
    (ha : (i.ins s.cfg).hasAddr = true) : s.begin = { s with ph := .addr } := by
  simp [State.begin, hq, ha]

theorem begin_buf {s : State} {i : Instr} {es : List Elem} (hq : s.q = .ins i :: es)
    (ha : (i.ins s.cfg).hasAddr ≠ true) (hp : i.payload ≠ []) :
    s.begin = { s with ph := .buf, k := 0 } := by
  simp [State.begin, hq, ha, hp]

theorem begin_issue {s : State} {i : Instr} {es : List Elem} (hq : s.q = .ins i :: es)
    (ha : (i.ins s.cfg).hasAddr ≠ true) (hp : i.payload = []) : s.begin = { s with ph := .issue } := by
  simp [State.begin, hq, ha, hp]

/-- A non-empty payload has a first word to stage. -/
theorem divUp_length_pos {p : List Byte} (h : p ≠ []) : 0 < divUp p.length 4 :=
  divUp_pos.mpr (List.length_pos_iff.mpr h)

/-- Beginning the head of a queue whose elements the rules give a step (R181). -/
theorem controlOk_begin {s : State} (hq : s.q ≠ []) (he : s.q.all (elemOk s.req) = true)
    (hf : s.flight = .clear) : ControlOk s.begin := by
  cases h : s.q with
  | nil => exact absurd h hq
  | cons e es =>
    cases e with
    | mfr => rw [begin_mfr h]; exact controlOk_mfr rfl h he hf
    | illegal w => simp [h, elemOk] at he
    | poll pk n => rw [begin_poll h]; exact controlOk_poll rfl h (Nat.zero_le n) he hf
    | ins i =>
      by_cases ha : (i.ins s.cfg).hasAddr = true
      · rw [begin_addr h ha]; exact controlOk_addr rfl h ha he hf
      · by_cases hp : i.payload = []
        · rw [begin_issue h ha hp]; exact controlOk_issue rfl h he hf
        · rw [begin_buf h ha hp]; exact controlOk_buf rfl h (divUp_length_pos hp) he hf

/-- The end of an instruction whose flight is known leads to the next element, or to DONE (R185). -/
theorem controlOk_finishHead {s : State} (he : s.q.all (elemOk s.req) = true) (hf : s.flight.known) :
    ControlOk s.finishHead := by
  have hc := complete_flight hf
  have he' : s.q.tail.all (elemOk s.req) = true :=
    List.all_eq_true.mpr fun x hx => List.all_eq_true.mp he x (List.mem_of_mem_tail hx)
  obtain ⟨-, h⟩ | ⟨hq, h⟩ := finishHead_cases s <;> rw [h]
  · exact controlOk_done rfl rfl (.inr hc)
  · exact controlOk_begin hq (by simpa using he') hc

/-! ### The phases keep control -/

section
variable {s : State} {i : Instr} {es : List Elem} (hq : s.q = .ins i :: es)
  (he : s.q.all (elemOk s.req) = true)
include hq he

theorem controlOk_addrStep (hf : s.flight = .clear) : ControlOk (s.addrStep (i.ins s.cfg)) := by
  have hw := transacted_writeReg .addr (i.ins s.cfg).addr s
  have hf' := (State.writeReg_flight (r := .addr) (by simp) (i.ins s.cfg).addr s).trans hf
  have he' : (s.writeReg .addr (i.ins s.cfg).addr).2.q.all
      (elemOk (s.writeReg .addr (i.ins s.cfg).addr).2.req) = true := by rwa [hw.q, hw.req]
  obtain ⟨s1, h, hs⟩ | ⟨s1, h, ⟨hpay, hs⟩ | ⟨-, hs⟩⟩ := addrStep_cases (i.ins s.cfg) s <;>
    rw [hs] <;> obtain rfl := snd_of_writeReg h
  · exact controlOk_done rfl rfl (.inr hf')
  · exact controlOk_buf rfl (hw.q.trans hq) (divUp_length_pos hpay) he' hf'
  · exact controlOk_issue rfl (hw.q.trans hq) he' hf'

theorem controlOk_bufStep (hp : s.ph = .buf) (hk : s.k < divUp i.payload.length 4)
    (hf : s.flight = .clear) : ControlOk (s.bufStep (i.ins s.cfg) (stageWord i.payload s.k)) := by
  have hw := transacted_writeReg (.buf s.k) (stageWord i.payload s.k) s
  have hf' := (State.writeReg_flight (r := .buf s.k) (by simp) (stageWord i.payload s.k) s).trans hf
  have he' : (s.writeReg (.buf s.k) (stageWord i.payload s.k)).2.q.all
      (elemOk (s.writeReg (.buf s.k) (stageWord i.payload s.k)).2.req) = true := by rwa [hw.q, hw.req]
  obtain ⟨s1, h, hs⟩ | ⟨s1, h, ⟨-, hs⟩ | ⟨hne, hs⟩⟩ :=
      bufStep_cases (i.ins s.cfg) (stageWord i.payload s.k) s <;>
    rw [hs] <;> obtain rfl := snd_of_writeReg h
  · exact controlOk_done rfl rfl (.inr hf')
  · exact controlOk_issue rfl (hw.q.trans hq) he' hf'
  · exact controlOk_buf (hw.ph.trans hp) (hw.q.trans hq) (Nat.lt_of_le_of_ne hk hne) he' hf'

theorem controlOk_issueStep (hp : s.ph = .issue) (hf : s.flight = .clear) :
    ControlOk (s.issueStep (i.ins s.cfg)) := by
  have hw := transacted_writeReg .cmd (encIns s.cfg (i.ins s.cfg)) s
  have hknown : s.flight.known := hf ▸ Flight.known_clear
  obtain ⟨s1, h, hs⟩ | ⟨s1, h, hs⟩ := issueStep_cases (i.ins s.cfg) s <;> rw [hs]
  · obtain rfl := snd_of_writeReg h
    exact controlOk_done rfl rfl (.inl (by simp [hp, taints]))
  · have hfl : s1.flight.known := writeReg_cmd_flight_ne_doubtful h hknown
    obtain rfl := snd_of_writeReg h
    exact controlOk_wait rfl (hw.q.trans hq) (Nat.zero_le _)
      (by rw [← hw.q, ← hw.req] at he; exact he) hfl

end

/-- A read keeps a known flight known. -/
theorem known_readReg {s : State} (r : Reg) (h : s.flight.known) : (s.readReg r).2.2.flight.known := by
  obtain hr | hr := readReg_flight_cases r s <;> rw [hr]
  · exact h
  · exact Flight.known_clear

theorem clear_readReg {s : State} (r : Reg) (h : s.flight = .clear) :
    (s.readReg r).2.2.flight = .clear := by
  obtain hr | hr := readReg_flight_cases r s <;> rw [hr]
  exact h

/-- A wait, of an instruction or bare, that ends keeps control; what is asked is that one more poll, short
of the timeout, does. -/
theorem controlOk_waitStep {s : State} {pk : Signal} {n : Nat} (hp : s.ph = .wait)
    (he : s.q.all (elemOk s.req) = true) (hf : s.flight.known)
    (hagain : s.cnt ≠ n → ControlOk ((s.readReg (pollReg pk)).2.2.pollAgain pk)) :
    ControlOk (s.waitStep pk n) := by
  have hr := transacted_readReg (pollReg pk) s
  obtain ⟨-, hs⟩ | ⟨-, v, s1, h, hs⟩ | ⟨hne, v, s1, h, ⟨-, hs⟩ | ⟨-, hs⟩⟩ :=
      waitStep_cases pk n s <;>
    rw [hs]
  · exact controlOk_done rfl rfl (.inl (by simp [taints]))
  · obtain rfl := snd_of_readReg h
    exact controlOk_done rfl rfl (.inl (by simp [hp, taints]))
  · obtain rfl := snd_of_readReg h
    exact hagain hne
  · obtain rfl := snd_of_readReg h
    exact controlOk_finishHead (by rwa [hr.q, hr.req]) (known_readReg _ hf)

/-- The flight of a state in control is clear where the operands are written, in ISSUE, in MFR and in a
bare wait (R49 (e), R352). -/
theorem ControlOk.flight_clear {s : State} (h : ControlOk s)
    (hp : s.ph = .addr ∨ s.ph = .buf ∨ s.ph = .issue ∨ s.ph = .mfr ∨
      s.ph = .wait ∧ ∃ pk n es, s.q = .poll pk n :: es) : s.flight = .clear := by
  have hf := h.flight
  obtain hp | hp | hp | hp | ⟨hp, pk, n, es, hq⟩ := hp
  · simpa [flightOk, hp] using hf
  · simpa [flightOk, hp] using hf
  · simpa [flightOk, hp] using hf
  · simpa [flightOk, hp] using hf
  · simpa [flightOk, hp, hq] using hf

/-- Between operations a command is in flight only under `tainted`. -/
theorem ControlOk.flight_rest {s : State} (h : ControlOk s) (hp : s.ph = .idle ∨ s.ph = .done) :
    s.tainted = true ∨ s.flight = .clear := by
  have hf := h.flight
  obtain hp | hp := hp <;> simpa [flightOk, hp] using hf

/-- Between operations the queue is empty (R49 (a)). -/
theorem ControlOk.queue_rest {s : State} (h : ControlOk s) (hp : s.ph = .idle ∨ s.ph = .done) :
    s.q = [] := by
  have hph := h.phase
  cases hq : s.q with
  | nil => rfl
  | cons e es => obtain hp | hp := hp <;> simp [phaseOk, hp, hq] at hph

/-- In an instruction's wait the flight is known and the count within the timeout (R49 (c)). -/
theorem ControlOk.wait {s : State} {i : Instr} {es : List Elem} (h : ControlOk s) (hp : s.ph = .wait)
    (hq : s.q = .ins i :: es) : s.cnt ≤ (i.ins s.cfg).timeout ∧ s.flight.known := by
  have hph := h.phase
  have hf := h.flight
  refine ⟨by simpa [phaseOk, hp, hq] using hph, fun w hw => ?_⟩
  simp [flightOk, hp, hq, hw] at hf

theorem controlOk_exec {s t : State} {i : Instr} {es : List Elem} (h : ControlOk s)
    (hq : s.q = .ins i :: es) (hx : exec i s = .next t) : ControlOk t := by
  obtain ⟨hp, -, rfl⟩ | ⟨hp, hk, rfl⟩ | ⟨hp, hf, rfl⟩ | ⟨hp, rfl⟩ := exec_cases hx
  · exact controlOk_addrStep hq h.elems (h.flight_clear (.inl hp))
  · exact controlOk_bufStep hq h.elems hp hk (h.flight_clear (.inr (.inl hp)))
  · exact controlOk_issueStep hq h.elems hp hf
  · obtain ⟨hcnt, hknown⟩ := h.wait hp hq
    refine controlOk_waitStep hp h.elems hknown fun hne => ?_
    have hr := transacted_readReg (pollReg (i.ins s.cfg).pk) s
    exact controlOk_wait (hr.ph.trans hp) (hr.q.trans hq)
      (by simpa [hr.cnt, hr.cfg] using Nat.lt_of_le_of_ne hcnt hne)
      (by simpa using h.elems) (known_readReg _ hknown)

theorem controlOk_pollStep {s : State} {pk : Signal} {n : Nat} {es : List Elem} (h : ControlOk s)
    (hp : s.ph = .wait) (hq : s.q = .poll pk n :: es) : ControlOk (s.waitStep pk n) := by
  have hf := h.flight_clear (.inr (.inr (.inr (.inr ⟨hp, pk, n, es, hq⟩))))
  have hcnt : s.cnt ≤ n := by simpa [phaseOk, hp, hq] using h.phase
  refine controlOk_waitStep hp h.elems (hf ▸ Flight.known_clear) fun hne => ?_
  have hr := transacted_readReg (pollReg pk) s
  exact controlOk_poll (hr.ph.trans hp) (hr.q.trans hq)
    (by simpa [hr.cnt] using Nat.lt_of_le_of_ne hcnt hne) (by simpa using h.elems) (clear_readReg _ hf)

/-- The instructions of a continuation are well formed, and no request has one bucket's only (R245). -/
theorem continuation_ok (r : Request) (b : Bucket) :
    (continuation r b).all (elemOk r) = true ∧
      (continuation r .generic ≠ [] → continuation r b ≠ []) := by
  cases r <;> cases b <;> exact ⟨rfl, by simp [continuation]⟩

theorem controlOk_mfrRead {s : State} (h : ControlOk s) (hp : s.ph = .mfr)
    (hc : continuation s.req .generic ≠ []) : ControlOk s.mfrRead := by
  have hf := clear_readReg (mfrReg s.cfg) (h.flight_clear (.inr (.inr (.inr (.inl hp)))))
  obtain hs | ⟨b, hs⟩ := mfrRead_cases s <;> rw [hs]
  · exact controlOk_done rfl rfl (.inr hf)
  · obtain ⟨hok, hne⟩ := continuation_ok s.req b
    exact controlOk_begin (hne hc) (by simpa using hok) hf

/-! ### Acceptance and the host keep control -/

/-- An accepted request fits the buffer (R305): every element of its expansion has a step. -/
theorem expansion_ok {s : State} {r : Request} (h : s.refusalCause r = none) :
    (expansion s.cfg r).all (elemOk r) = true := by
  have hlen : requestLength r ≤ bufBytes := by
    unfold State.refusalCause at h
    by_contra hlt
    split at h
    · cases h
    · rw [if_pos (Nat.lt_of_not_le hlt)] at h
      cases h
  have hpay (i : Instr) (hi : i.payload.length ≤ bufBytes) : i.wf = true := by
    cases i with
    | pp a p => exact decide_eq_true hi
    | _ => rfl
  cases r with
  | single i => simp [expansion, elemOk, hpay i hlen]
  | pageProgram a p =>
    have hpp : elemOk (.pageProgram a p) (.ins (.pp a p)) = true := hpay (.pp a p) hlen
    simp only [expansion]
    split <;> simp only [List.all_cons, hpp] <;> rfl
  | _ => rfl

theorem controlOk_accept {r : Request} {s t : State} (hf : s.tainted = true ∨ s.flight = .clear)
    (h : accept r s = .next t) : ControlOk t := by
  obtain ⟨ht, hcase⟩ := accept_cases h
  have hclear : s.flight = .clear := by simpa [ht] using hf
  obtain ⟨c, rfl⟩ | ⟨hc, hne, rfl⟩ | ⟨w, ws, rfl⟩ := hcase
  · exact controlOk_done rfl rfl (.inr hclear)
  · exact controlOk_begin hne (expansion_ok hc) hclear
  · exact controlOk_done rfl rfl (.inr hclear)

/-- A step that leaves the engine alone keeps it in control. -/
theorem EngineIdle.controlOk {s t : State} (h : EngineIdle s t) (hp : s.ph = .idle) (hq : s.q = [])
    (hf : s.tainted = true ∨ s.flight = .clear) : ControlOk t :=
  controlOk_idle (h.ph.trans hp) (h.q.trans hq) (by rwa [h.tainted, h.flight])

theorem controlOk_hostStep {s t : State} (h : ControlOk s) (hp : s.ph = .idle)
    (hh : hostStep s = .next t) : ControlOk t := by
  have hf := h.flight_rest (.inl hp)
  have hq := h.queue_rest (.inl hp)
  obtain ⟨r, -, hr⟩ | ⟨-, rfl⟩ | ⟨-, rfl⟩ | ⟨-, ho⟩ := hostStep_inv hh
  · exact controlOk_accept (s := { s with host := s.hostAfter }) hf hr
  · exact (readVersion_cases _).1.controlOk hp hq hf
  · exact controlOk_idle hp hq hf
  · exact ho.idle.controlOk hp hq hf

theorem controlOk_step {s t : State} (h : ControlOk s) (hs : step s = .next t) : ControlOk t := by
  obtain ⟨hp, hh⟩ | ⟨hp, rfl⟩ | ⟨hp, -, hc, rfl⟩ | ⟨i, es, hq, hx⟩ | ⟨pk, n, es, hq, hp, rfl⟩ :=
    step_cases hs
  · exact controlOk_hostStep h hp hh
  · exact controlOk_idle rfl (h.queue_rest (.inr hp)) (h.flight_rest (.inr hp))
  · exact controlOk_mfrRead h hp hc
  · exact controlOk_exec h hq hx
  · exact controlOk_pollStep h hp hq

/-! ### The stores are kept -/

/-- The flash array stays in its canonical form through a wait. -/
theorem wf_waitStep {s : State} (pk : Signal) (n : Nat) (h : s.dev.flash.wf s.cfg = true) :
    (s.waitStep pk n).dev.flash.wf s.cfg = true := by
  have hr := State.wf_readReg (pollReg pk) h
  obtain ⟨-, he⟩ | ⟨-, v, s1, hread, he⟩ | ⟨-, v, s1, hread, ⟨-, he⟩ | ⟨-, he⟩⟩ :=
      waitStep_cases pk n s <;>
    rw [he]
  · exact h
  · obtain rfl := snd_of_readReg hread; exact hr
  · obtain rfl := snd_of_readReg hread; exact hr
  · obtain rfl := snd_of_readReg hread
    rw [finishHead_dev]
    simpa using State.wf_complete (s := (s.readReg (pollReg pk)).2.2) (by simpa using hr)

theorem wf_exec {i : Instr} {s t : State} (hx : exec i s = .next t) (h : s.dev.flash.wf s.cfg = true) :
    t.dev.flash.wf s.cfg = true := by
  by_cases hp : s.ph = .wait
  · rw [exec_wait hp] at hx
    cases hx
    exact wf_waitStep _ _ h
  · rwa [exec_dev_of_ne_wait hx hp]

theorem wf_step {s t : State} (hs : step s = .next t) (h : s.dev.flash.wf s.cfg = true) :
    t.dev.flash.wf s.cfg = true := by
  obtain ⟨-, hh⟩ | ⟨-, rfl⟩ | ⟨-, -, -, rfl⟩ | ⟨i, es, -, hx⟩ | ⟨pk, n, es, -, -, rfl⟩ :=
    step_cases hs
  · rwa [hostStep_dev hh]
  · exact h
  · rw [mfrRead_dev]
    exact State.wf_readReg _ h
  · exact wf_exec hx h
  · exact wf_waitStep pk n h

/-- The geometry speaks of the sizes, the number of sectors, `probed` and the host's moves only. -/
theorem Geometry.of_eq {s t : State} (h : Geometry s) (hprobed : t.probed = s.probed)
    (hsize : t.sectorSize = s.sectorSize) (hflash : t.flashSize = s.flashSize)
    (hlen : t.sectors.length = s.sectors.length)
    (hmoves : .setProbed ∈ t.host.moves → 0 < s.sectorSize ∨ t.host.moves.head? = some .readId) :
    Geometry t where
  length := by rw [hlen, hflash, hsize, h.length]
  probed hb := by rw [hsize]; exact h.probed (hprobed.symm.trans hb)
  moves hm := by rw [hsize]; exact hmoves hm

/-- A record of the table of a well-formed configuration has a sector size (R8 (e), log 31). -/
theorem sectorKB_pos {c : Cfg} (hc : c.wf = true) {d : DeviceSpec} (hd : d ∈ c.deviceTable) :
    0 < d.sectorKB := by
  simp only [Cfg.wf, Cfg.wfGeometry, Bool.and_eq_true, decide_eq_true_eq] at hc
  obtain ⟨⟨-, -, -, htable⟩, -⟩ := hc
  exact (htable d hd).1

/-- The moves left after the head of a call that is not the version read ask for a geometry. -/
theorem Geometry.pos_of_mem_tail {s : State} (h : Geometry s) (hne : s.host.moves.head? ≠ some .readId)
    (hm : .setProbed ∈ s.host.moves.tail) : 0 < s.sectorSize := by
  obtain hpos | hid := h.moves (List.mem_of_mem_tail hm)
  · exact hpos
  · exact absurd hid hne

theorem geometry_readVersion {s : State} (hc : s.cfg.wf = true) (hg : Geometry s) :
    Geometry (State.readVersion { s with host := s.hostAfter }) := by
  obtain ⟨-, hprobed, ⟨hb, hm⟩ | ⟨d, hd, hsize, hflash, hlen⟩⟩ :=
    readVersion_cases { s with host := s.hostAfter }
  · exact hg.of_eq hprobed hb.sectorSize hb.flashSize (congrArg _ hb.sectors) (by simp [hm])
  · have hpos : 0 < (State.readVersion { s with host := s.hostAfter }).sectorSize := by
      rw [hsize]
      exact Nat.mul_pos (sectorKB_pos hc hd) (by decide)
    exact ⟨by rw [hlen, hflash, hsize], fun _ => hpos, fun _ => .inl hpos⟩

theorem geometry_hostStep {s t : State} (hc : s.cfg.wf = true) (hg : Geometry s)
    (h : hostStep s = .next t) : Geometry t := by
  have htail := hostAfter_moves s
  obtain ⟨r, hne, hr⟩ | ⟨-, rfl⟩ | ⟨hset, rfl⟩ | ⟨hne, ho⟩ := hostStep_inv h
  · have ha := accepted_of_accept hr
    refine hg.of_eq ha.probed ha.sectorSize ha.flashSize (congrArg _ ha.sectors) fun hm => .inl ?_
    rw [ha.moves, htail] at hm
    exact hg.pos_of_mem_tail hne hm
  · exact geometry_readVersion hc hg
  · have hpos : 0 < s.sectorSize := by
      obtain hpos | hid := hg.moves (List.mem_of_mem_head? hset)
      · exact hpos
      · simp [hset] at hid
    exact ⟨hg.length, fun _ => hpos, fun _ => .inl hpos⟩
  · refine hg.of_eq ho.bank.probed ho.bank.sectorSize ho.bank.flashSize (congrArg _ ho.bank.sectors) ?_
    intro hm
    obtain hm | hid := ho.moves hm
    · exact .inl (hg.pos_of_mem_tail hne (htail ▸ hm))
    · exact .inr hid

theorem geometry_step {s t : State} (hc : s.cfg.wf = true) (hg : Geometry s) (h : step s = .next t) :
    Geometry t := by
  obtain ⟨-, hh⟩ | ⟨-, rfl⟩ | ⟨-, hf⟩ := step_inv h
  · exact geometry_hostStep hc hg hh
  · refine hg.of_eq rfl rfl rfl rfl fun hm => ?_
    rw [State.collect_host] at hm ⊢
    dsimp only at hm ⊢
    split at hm
    · rw [if_pos ‹_›]
      exact hg.moves hm
    · simp at hm
  · exact hg.of_eq hf.probed hf.sectorSize hf.flashSize hf.length_sectors (by rw [hf.host]; exact hg.moves)

/-! ### The invariant -/

/-- Settles O42: every step keeps both halves of the invariant. -/
theorem stepKeepsInvariant : Obligations.StepKeepsInvariant := by
  intro s t hinv h
  obtain ⟨hstore, hcontrol⟩ := inv_iff.mp hinv
  have hcfg : t.cfg = s.cfg := (taintedAndProbedStay s t h).1
  refine inv_iff.mpr ⟨⟨?_, geometry_step hstore.cfg hstore.geometry h, ?_⟩, controlOk_step hcontrol h⟩
  · rw [hcfg]; exact hstore.cfg
  · rw [hcfg]; exact wf_step h hstore.flash

/-- Settles O46: the device by phases, and the flight at DONE from the invariant of the state reached. -/
theorem deviceChangesOnlyWhileWaiting : Obligations.DeviceChangesOnlyWhileWaiting := by
  intro s t hm h
  refine ⟨fun hd => by_contra fun hp => hd (step_dev_of_ne_wait hm h hp), fun hinv hp ht => ?_⟩
  have hcontrol := (inv_iff.mp (stepKeepsInvariant s t hinv h)).2
  simpa [ht] using hcontrol.flight_rest (.inr hp)

end Sys2Proof.Machine
end

section
/-! PROOFS. The command word reads back: its named fields, its row of the command table, and the
instruction the controller decodes of it and of the operands staged (R80, R106, R143). -/
namespace Sys2Proof

/-! ### The fields of an encoded word -/

/-- The word of the encoder reads back, field by field (R143 (a)). -/
theorem dec_enc {c : Cfg} (h : c.wf = true) (id : Byte) (a w d p : Bool) {n : Nat} (hn : n ≤ bufBytes) :
    dec c (enc c id a w d p n) = ⟨true, p, lengthByte n, a, w, d, id⟩ := by
  obtain ⟨⟨hact, hpoll, hlen, haddr, hwr, hdata, hid⟩, apart⟩ := Cfg.layout_of_wf h
  have apart' := List.pairwise_reverse.mpr (apart.imp Or.symm)
  simp only [Cfg.fields, List.reverse_cons, List.reverse_nil, List.nil_append, List.cons_append,
    List.pairwise_cons, List.forall_mem_cons, List.not_mem_nil, BitField.disjoint] at apart apart'
  simp only [dec, enc, lengthField_eq c hn, BitVec.getLsbD_or, byteAt_or, getLsbD_bitMask_same,
    getLsbD_bitMask_disjoint, getLsbD_field_disjoint, byteAt_field_same, byteAt_field_disjoint,
    byteAt_bitMask, apart, apart', hact, hpoll, hlen, haddr, hwr, hdata, hid]
  simp

/-- A bit of a one-bit mask is one of the full mask. -/
theorem getLsbD_bitMask_true {b : Bool} {i p : Nat} (h : (bitMask b i).getLsbD p = true) :
    (bitMask true i).getLsbD p = true := by
  rw [getLsbD_bitMask] at h ⊢
  simp only [Bool.and_eq_true] at h ⊢
  obtain ⟨⟨-, hi⟩, hp⟩ := h
  exact ⟨⟨trivial, hi⟩, hp⟩

/-- A bit of a byte in place is one of that byte's mask. -/
theorem getLsbD_fieldMask_byte {v : Byte} {lsb p : Nat}
    (h : ((v.setWidth 32 : Word) <<< lsb).getLsbD p = true) : (0xFF#32 <<< lsb).getLsbD p = true := by
  have hmask : (0xFF#32 : Word) = (BitVec.allOnes 8).setWidth 32 := by decide
  rw [getLsbD_field] at h
  rw [hmask, getLsbD_field]
  simp only [Bool.and_eq_true] at h ⊢
  obtain ⟨hp, hv⟩ := h
  exact ⟨hp, BitVec.getLsbD_allOnes.trans (decide_eq_true (BitVec.lt_of_getLsbD hv))⟩

/-- Every bit of the encoder's word is a named one (R143 (b)). -/
theorem getLsbD_fieldMask_of_enc {c : Cfg} {id : Byte} {a w d p : Bool} {n : Nat} (hn : n ≤ bufBytes)
    {i : Nat} (h : (enc c id a w d p n).getLsbD i = true) : (fieldMask c).getLsbD i = true := by
  simp only [enc, fieldMask, lengthField_eq c hn, BitVec.getLsbD_or, Bool.or_eq_true] at h ⊢
  have bit {b : Bool} {j : Nat} := @getLsbD_bitMask_true b j i
  have byte {v : Byte} {j : Nat} := @getLsbD_fieldMask_byte v j i
  exact h.imp (Or.imp (Or.imp (Or.imp (Or.imp (Or.imp bit bit) byte) bit) bit) bit) byte

theorem enc_and_not_fieldMask (c : Cfg) (id : Byte) (a w d p : Bool) {n : Nat} (hn : n ≤ bufBytes) :
    enc c id a w d p n &&& ~~~(fieldMask c) = 0#32 := by
  apply BitVec.eq_of_getLsbD_eq
  intro i hi
  have hnamed : (enc c id a w d p n).getLsbD i = true → _ := getLsbD_fieldMask_of_enc hn
  simp only [BitVec.getLsbD_and, BitVec.getLsbD_not, BitVec.getLsbD_zero, hi, decide_true,
    Bool.true_and]
  cases he : (enc c id a w d p n).getLsbD i
  · rfl
  · simp [hnamed he]

/-! ### The row of an instruction's word -/

/-- The row that matches a word without unnamed bits is the one the word is decoded to (R115). -/
theorem commandOf_of_rowMatches {c : Cfg} {w : Word} {m : Mnemonic} (hwf : c.wf = true)
    (hmask : w &&& ~~~(fieldMask c) = 0#32) (hm : rowMatches c (dec c w) m = true) :
    commandOf c w = .ok m := by
  obtain ⟨hact, -⟩ := rowMatches_iff.mp hm
  have hfind : mnemonics.find? (rowMatches c (dec c w)) = some m := by
    have hmem : m ∈ mnemonics := by cases m <;> decide
    obtain ⟨m', hm'⟩ := Option.isSome_iff_exists.mp (List.find?_isSome.mpr ⟨m, hmem, hm⟩)
    rw [hm', rowsDoNotOverlap c _ m' m hwf (List.find?_some hm') hm]
  simp [commandOf, hact, hmask, hfind]

/-- A well-formed instruction's payload fits the buffer (R116). -/
theorem Instr.payload_length_le {i : Instr} (h : i.wf = true) : i.payload.length ≤ bufBytes := by
  cases i with
  | pp a p => exact of_decide_eq_true h
  | _ => simp [Instr.payload, bufBytes]

/-- An instruction's byte count is one its row allows (R105, R106, R110). -/
theorem lengthAllowed_payload (i : Instr) :
    lengthAllowed i.mnemonic (lengthByte i.payload.length) = true := by
  cases i <;> rfl

/-- The fields of an instruction's command word are its row's, with LENGTH for its payload. -/
theorem dec_encIns {c : Cfg} {i : Instr} (hc : c.wf = true) (hi : i.wf = true) :
    dec c (encIns c (i.ins c)) =
      ⟨true, (row c i.mnemonic).poll, lengthByte i.payload.length, (row c i.mnemonic).hasAddr,
        (row c i.mnemonic).hasWr, (row c i.mnemonic).hasData, (row c i.mnemonic).id⟩ :=
  dec_enc hc _ _ _ _ _ (Instr.payload_length_le hi)

/-- An instruction's command word is one of its row (R110, R115). -/
theorem commandOf_encIns {c : Cfg} {i : Instr} (hc : c.wf = true) (hi : i.wf = true) :
    commandOf c (encIns c (i.ins c)) = .ok i.mnemonic := by
  refine commandOf_of_rowMatches hc (enc_and_not_fieldMask c _ _ _ _ _ (Instr.payload_length_le hi)) ?_
  rw [dec_encIns hc hi]
  exact rowMatches_iff.mpr ⟨rfl, rfl, lengthAllowed_payload i, rfl, rfl, rfl, rfl⟩

/-! ### What the controller decodes -/

/-- The controller reads LENGTH + 1 bytes: the payload staged, and one byte where there is none (R106). -/
theorem unstage_lengthByte {p : List Byte} {buf : List Word} (hp : p.length ≤ bufBytes)
    (hbuf : ∀ k < divUp p.length 4, buf[k]? = some (stageWord p k)) :
    unstage buf ((lengthByte p.length).toNat + 1) = if p = [] then [laneOf buf 0] else p := by
  split
  · subst p
    rfl
  · have hpos : 1 ≤ p.length := List.length_pos_iff.mpr ‹_›
    rw [lengthByte_toNat hpos hp, Nat.sub_add_cancel hpos, unstage_eq hbuf]

/-- Settles O6: the word reads back to the row, the buffer to the payload. -/
theorem controllerDecodesTheInstruction : Obligations.ControllerDecodesTheInstruction := by
  intro c i addr buf hc hi haddr hbuf
  have hbytes := unstage_lengthByte (Instr.payload_length_le hi) hbuf
  simp only [decodeStaged, commandOf_encIns hc hi, dec_encIns hc hi, hbytes]
  cases i with
  | wren => rfl
  | ce => rfl
  | se a => simp [assemble, Machine.asSeen, row, Instr.mnemonic, haddr rfl, Instr.address]
  | pp a p =>
    cases p <;>
      simp [assemble, Machine.asSeen, row, Instr.mnemonic, Instr.payload, haddr rfl, Instr.address]
  | wrsr1 b => rfl
  | wrsr2 b => rfl
  | wrsr1w b0 b1 => rfl

end Sys2Proof
end

section
/-! PROOFS. The flash array and what a command does to the device: the canonical form determines the
memory, and one equation per command that the device carries out (R60, R80). -/
namespace Sys2Proof.Machine

/-! ### The canonical form -/

/-- In a list of rising offsets a cell is found at its offset. -/
theorem mem_iff_lookup_of_rising {l : List Host.Cell} (h : Rising l) {a : Nat} {v : Byte} :
    (a, v) ∈ l ↔ l.lookup a = some v := by
  rw [List.lookup_eq_some_iff]
  constructor
  · intro hm
    obtain ⟨l₁, l₂, rfl⟩ := List.append_of_mem hm
    obtain ⟨-, -, hlt⟩ := List.pairwise_append.mp h
    exact ⟨l₁, l₂, rfl, fun x hx => by simpa using (hlt x hx (a, v) List.mem_cons_self).ne'⟩
  · rintro ⟨l₁, l₂, rfl, -⟩
    simp

/-- A canonical memory lists exactly the bytes that do not read as unlisted ones do (log 4). -/
theorem Memory.mem_cells_iff {c : Cfg} {m : Memory} (h : m.wf c = true) {a : Nat} {v : Byte} :
    (a, v) ∈ m.cells ↔ m.read c a = v ∧ v ≠ m.unlisted c a := by
  obtain ⟨hrise, hne⟩ := Memory.wf_iff.mp h
  refine ⟨fun hm => ⟨?_, hne _ hm⟩, fun ⟨hr, hv⟩ => ?_⟩
  · simp [Memory.read, (mem_iff_lookup_of_rising hrise).mp hm]
  · rw [mem_iff_lookup_of_rising hrise]
    cases hl : m.cells.lookup a with
    | none => simp [Memory.read, hl, hv.symm] at hr
    | some w => simpa [Memory.read, hl] using hr

/-- Settles O48: both lists rise and have the same cells. -/
theorem canonicalMemoriesAreEqual : Obligations.CanonicalMemoriesAreEqual := by
  intro c m m' h h' hbase hread
  have hunlisted (a : Nat) : m.unlisted c a = m'.unlisted c a := by simp [Memory.unlisted, hbase]
  have hmem : ∀ x, x ∈ m.cells ↔ x ∈ m'.cells := fun (a, v) => by
    rw [Memory.mem_cells_iff h, Memory.mem_cells_iff h', hread, hunlisted]
  have hirrefl : Std.Irrefl (fun x y : Host.Cell => x.1 < y.1) := ⟨fun x => Nat.lt_irrefl x.1⟩
  have hasymm : Std.Antisymm (fun x y : Host.Cell => x.1 < y.1) :=
    ⟨fun x y hxy hyx => absurd hxy (Nat.lt_asymm hyx)⟩
  obtain ⟨hrise, -⟩ := Memory.wf_iff.mp h
  obtain ⟨hrise', -⟩ := Memory.wf_iff.mp h'
  have hcells : m.cells = m'.cells := hrise.eq_of_mem_iff hrise' hmem
  calc m = ⟨m.base, m.cells⟩ := rfl
    _ = ⟨m'.base, m'.cells⟩ := by rw [hbase, hcells]
    _ = m' := rfl

/-! ### Commands the device carries out -/

theorem Device.eraseSector_of_accepts {c : Cfg} {mode : EnvMode} {d : Device} {a : Word}
    (h : d.flashAccepts mode = true) (ha : eraseDefined c mode a = true) (n : Nat) :
    d.eraseSector c mode n a = { d with
      flash := d.flash.eraseRange c (a.toNat / c.sectorSize * c.sectorSize) c.sectorSize
      wel := false } := by
  simp [Device.eraseSector, h, ha]

theorem Device.eraseChip_of_accepts {mode : EnvMode} {d : Device} (h : d.flashAccepts mode = true)
    (n : Nat) : d.eraseChip mode n = { d with flash := Memory.eraseAll, wel := false } := by
  simp [Device.eraseChip, h]

theorem Device.program_of_accepts {c : Cfg} {mode : EnvMode} {d : Device} {a : Word} {p : List Byte}
    (h : d.flashAccepts mode = true) (hp : a.toNat + p.length ≤ c.flashSize) (n : Nat) :
    d.program c mode n a p = { d with flash := d.flash.program c a.toNat p, wel := false } := by
  simp [Device.program, h, hp]

theorem Device.writeStatus_of_wel {c : Cfg} {mode : EnvMode} {d : Device} (h : d.wel = true)
    (hs : statusDefined c mode = true) (n : Nat) (sr1 sr2 : Byte) :
    d.writeStatus c mode n sr1 sr2 = { d with sr1 := sr1, sr2 := sr2, wel := false } := by
  simp [Device.writeStatus, h, hs]

/-- No status write touches the flash array, whatever the spec leaves open of it (log 10, log 32). -/
theorem Device.writeStatus_flash (c : Cfg) (mode : EnvMode) (n : Nat) (sr1 sr2 : Byte) (d : Device) :
    (d.writeStatus c mode n sr1 sr2).flash = d.flash := by
  unfold Device.writeStatus
  split
  · split <;> rfl
  · cases mode <;> rfl

/-! ### The reference environment -/

/-- Without write-enable the reference environment ignores every command but the write-enable (R80). -/
theorem Device.apply_reference_of_not_wel {d : Device} (h : d.wel = false) (c : Cfg) (n : Nat) {i : Instr}
    (hi : i ≠ .wren) : d.apply c .reference n i = d := by
  have hstatus (sr1 sr2 : Byte) : d.writeStatus c .reference n sr1 sr2 = d := by
    simp [Device.writeStatus, unaccepted, h]
  cases i with
  | wren => exact absurd rfl hi
  | se a => simp [Device.apply, Device.eraseSector, Device.flashAccepts, unaccepted, h]
  | ce => simp [Device.apply, Device.eraseChip, Device.flashAccepts, unaccepted, h]
  | pp a p => simp [Device.apply, Device.program, Device.flashAccepts, unaccepted, h]
  | wrsr1 b => exact hstatus _ _
  | wrsr2 b => exact hstatus _ _
  | wrsr1w b0 b1 => exact hstatus _ _

/-- The offsets of the sector that contains `a` are those of its index (R80). -/
theorem mem_sector_iff {size a x : Nat} (h : 0 < size) :
    (a / size * size ≤ x ∧ x < a / size * size + size) ↔ x / size = a / size := by
  rw [Nat.div_eq_iff h]
  omega

/-- Settles O50, command by command. -/
theorem referenceEffects : Obligations.ReferenceEffects := by
  intro c n d
  refine ⟨rfl, fun i hi hw => Device.apply_reference_of_not_wel hw c n hi, fun hw => ?_⟩
  have hacc : d.flashAccepts .reference = true := hw
  have hstatus := Device.writeStatus_of_wel (c := c) (mode := .reference) hw rfl n
  refine ⟨fun a hsize ha => ?_, ?_, fun a p hp => ?_, fun b => hstatus _ _, fun b => hstatus _ _,
    fun b0 b1 => hstatus _ _⟩
  · have hdef : eraseDefined c .reference a = true := by simp [eraseDefined, ha]
    simp only [Device.apply, Device.eraseSector_of_accepts hacc hdef]
    refine ⟨trivial, trivial, trivial, fun x => ?_⟩
    simp only [Memory.read_eraseRange, mem_sector_iff hsize]
  · simp [Device.apply, Device.eraseChip_of_accepts hacc]
  · simp only [Device.apply, Device.program_of_accepts hacc hp]
    exact ⟨trivial, trivial, trivial, fun x => Memory.read_program c p a.toNat x d.flash⟩

end Sys2Proof.Machine
end

section
/-! PROOFS. The device and the registers under the free oracle: which step completes a command and what a
completion changes of the array (R69, R72), what a failed write leaves (R81); and the requests outside the
spec's preconditions (R65, R66). -/
namespace Sys2Proof.Machine

/-! ### The phases of an instruction, run -/

theorem exec_addr {i : Instr} {s : State} (hp : s.ph = .addr) (ha : (i.ins s.cfg).hasAddr = true) :
    exec i s = .next (s.addrStep (i.ins s.cfg)) := by
  simp [exec_eq, runPhase, hp, ha]

theorem exec_buf {i : Instr} {s : State} (hp : s.ph = .buf) (hk : s.k < divUp i.payload.length 4) :
    exec i s = .next (s.bufStep (i.ins s.cfg) (stageWord i.payload s.k)) := by
  simp [exec_eq, runPhase, hp, getElem?_stageWords hk]

theorem exec_issue {i : Instr} {s : State} (hp : s.ph = .issue) (hf : s.flight = .clear) :
    exec i s = .next (s.issueStep (i.ins s.cfg)) := by
  simp [exec_eq, runPhase, hp, hf]

/-! ### Completion -/

/-- Under the free oracle a read gives the answer (R78). -/
theorem State.readReg_answer {s : State} (h : s.env.mode = .oracle) (r : Reg) :
    (s.readReg r).1 = s.answer.ok ∧ (s.readReg r).2.1 = s.answer.value := by
  unfold State.readReg
  rw [h]
  dsimp only
  split <;> simp [*]

theorem complete_of_clear {s : State} (h : s.flight = .clear) : s.complete = s := by
  simp [State.complete, h]

theorem complete_dev_of_running {s : State} {j : Instr} (h : s.flight = .running j) :
    s.complete.dev = s.dev.apply s.cfg s.env.mode s.env.draws j := by
  simp [State.complete, h]

/-- Under the free oracle a step of an instruction leaves the device as it was, or it is the poll read that
answers ok with the bit clear and the command in flight completes (log 9, log 15). -/
theorem exec_dev_cases {i : Instr} {s t : State} (hm : s.env.mode = .oracle) (h : exec i s = .next t) :
    t.dev = s.dev ∨
    (s.ph = .wait ∧ s.cnt ≠ (i.ins s.cfg).timeout ∧ s.answer.ok = true ∧
      pending s.cfg (i.ins s.cfg).pk s.answer.value = false ∧
      t.dev = (s.readReg (pollReg (i.ins s.cfg).pk)).2.2.complete.dev) := by
  by_cases hp : s.ph = .wait
  · rw [exec_wait hp] at h
    cases h
    have hread := State.readReg_answer hm (pollReg (i.ins s.cfg).pk)
    obtain ⟨hdev, -, -⟩ := State.readReg_oracle hm (pollReg (i.ins s.cfg).pk)
    obtain ⟨-, he⟩ | ⟨-, v, s1, hr, he⟩ | ⟨hne, v, s1, hr, ⟨-, he⟩ | ⟨hclear, he⟩⟩ :=
        waitStep_cases (i.ins s.cfg).pk (i.ins s.cfg).timeout s <;>
      rw [he]
    · exact .inl rfl
    · rw [hr] at hdev; exact .inl hdev
    · rw [hr] at hdev; exact .inl hdev
    · rw [hr] at hread ⊢
      obtain ⟨hok, hv⟩ := hread
      exact .inr ⟨hp, hne, hok.symm, hv ▸ hclear, finishHead_dev s1⟩
  · exact .inl (exec_dev_of_ne_wait h hp)

/-- Under the free oracle no step of an instruction changes the device while no command is in flight. -/
theorem exec_dev_of_clear {i : Instr} {s t : State} (hm : s.env.mode = .oracle) (h : exec i s = .next t)
    (hf : s.flight = .clear) : t.dev = s.dev := by
  obtain hd | ⟨-, -, -, -, hd⟩ := exec_dev_cases hm h
  · exact hd
  · obtain ⟨hdev, hflight, -⟩ := State.readReg_oracle hm (pollReg (i.ins s.cfg).pk)
    rw [hd, complete_of_clear (hflight.trans hf), hdev]

/-- Under the free oracle a step leaves the device as it was or applies the command in flight to it. -/
theorem exec_dev_of_running {i j : Instr} {s t : State} (hm : s.env.mode = .oracle)
    (h : exec i s = .next t) (hf : s.flight = .running j) :
    t.dev = s.dev ∨ ∃ n, t.dev = s.dev.apply s.cfg .oracle n j := by
  obtain hd | ⟨-, -, -, -, hd⟩ := exec_dev_cases hm h
  · exact .inl hd
  · obtain ⟨hdev, hflight, hmode⟩ := State.readReg_oracle hm (pollReg (i.ins s.cfg).pk)
    rw [complete_dev_of_running (hflight.trans hf), hdev, hmode, State.readReg_cfg] at hd
    exact .inr ⟨_, hd⟩

/-- A byte that no completion of the command in flight changes stays through every step. -/
theorem exec_flash_read_of_running {i j : Instr} {s t : State} (hm : s.env.mode = .oracle)
    (h : exec i s = .next t) (hf : s.flight = .running j) {x : Nat}
    (hx : ∀ n, (s.dev.apply s.cfg .oracle n j).flash.read s.cfg x = s.dev.flash.read s.cfg x) :
    t.dev.flash.read s.cfg x = s.dev.flash.read s.cfg x := by
  obtain hd | ⟨n, hd⟩ := exec_dev_of_running hm h hf <;> rw [hd]
  exact hx n

/-! ### The bytes a completion leaves alone -/

/-- A device that is ready accepts an erase and a program (log 10). -/
theorem Ready.flashAccepts {s : State} (h : Ready s) : s.dev.flashAccepts .oracle = true := by
  obtain ⟨hwel, hsr1⟩ := h
  simp [Device.flashAccepts, hwel, hsr1]

/-- A defined sector erase of a ready device changes no byte outside the sector (R69, R200). -/
theorem Ready.read_apply_se {s : State} (h : Ready s) {a : Word} (ha : a.toNat % s.cfg.sectorSize = 0)
    (hlt : a.toNat < s.cfg.flashSize) {x : Nat} (hx : x < a.toNat ∨ a.toNat + s.cfg.sectorSize ≤ x)
    (n : Nat) :
    (s.dev.apply s.cfg .oracle n (.se a)).flash.read s.cfg x = s.dev.flash.read s.cfg x := by
  have hdef : eraseDefined s.cfg .oracle a = true := by simp [eraseDefined, ha, hlt]
  have hstart : a.toNat / s.cfg.sectorSize * s.cfg.sectorSize = a.toNat :=
    Nat.div_mul_cancel (Nat.dvd_of_mod_eq_zero ha)
  simp only [Device.apply, Device.eraseSector_of_accepts h.flashAccepts hdef, hstart,
    Memory.read_eraseRange]
  exact if_neg (by omega)

/-- A defined program of a ready device changes no byte outside its payload's range (R220). -/
theorem Ready.read_apply_pp {s : State} (h : Ready s) {a : Word} {p : List Byte}
    (hp : a.toNat + p.length ≤ s.cfg.flashSize) {x : Nat} (hx : x < a.toNat ∨ a.toNat + p.length ≤ x)
    (n : Nat) :
    (s.dev.apply s.cfg .oracle n (.pp a p)).flash.read s.cfg x = s.dev.flash.read s.cfg x := by
  simp only [Device.apply, Device.program_of_accepts h.flashAccepts hp, Memory.read_program]
  exact if_neg (by omega)

/-- Settles O23: outside the completing read nothing changes, and a completion changes its own bytes. -/
theorem flashFrame : Obligations.FlashFrame := by
  intro i s t hm h
  have hcases := exec_dev_cases hm h
  refine ⟨exec_dev_of_ne_wait h, exec_dev_of_clear hm h, fun _ hcnt => ?_, fun d ds hd hok => ?_,
    fun d ds _ hd hpend => ?_, fun hf x => ?_, fun a hf hr ha hlt x hx => ?_, fun a p hf hr hp x hx => ?_⟩
  · obtain hd | ⟨-, hne, -⟩ := hcases
    · exact hd
    · exact absurd hcnt hne
  · obtain hd' | ⟨-, -, hok', -⟩ := hcases
    · exact hd'
    · simp [hd.answer, hok] at hok'
  · obtain hd' | ⟨-, -, -, hclear, -⟩ := hcases
    · exact hd'
    · simp [hd.answer, hpend] at hclear
  · obtain hf | ⟨b, hf⟩ | ⟨b, hf⟩ | ⟨b0, b1, hf⟩ := hf
    · exact exec_flash_read_of_running hm h hf fun n => rfl
    · exact exec_flash_read_of_running hm h hf fun n => by
        rw [Device.apply, Device.writeStatus_flash]
    · exact exec_flash_read_of_running hm h hf fun n => by
        rw [Device.apply, Device.writeStatus_flash]
    · exact exec_flash_read_of_running hm h hf fun n => by
        rw [Device.apply, Device.writeStatus_flash]
  · exact exec_flash_read_of_running hm h hf (hr.read_apply_se ha hlt hx)
  · exact exec_flash_read_of_running hm h hf (hr.read_apply_pp hp hx)

/-! ### Failed writes -/

/-- Settles O25, phase by phase: the step aborts in the state the failed write leaves. -/
theorem failedWriteLeavesFreeValue : Obligations.FailedWriteLeavesFreeValue := by
  intro i s d ds hd hok
  refine ⟨fun hp ha => ⟨_, exec_addr hp ha, ?_⟩, fun hp hk => ⟨_, exec_buf hp hk, ?_⟩,
    fun hp hf => ⟨_, exec_issue hp hf, ?_, ?_⟩⟩
  · rw [(addrStep_sameHardware _ s).regs, hd.write_fail hok]
    rfl
  · rw [(bufStep_sameHardware _ _ s).regs, hd.write_fail hok]
    rfl
  · rw [(issueStep_sameHardware _ s).regs, hd.write_fail hok]
    rfl
  · rw [(issueStep_sameHardware _ s).flight, hd.write_fail hok]
    rfl

/-! ### Requests outside the preconditions -/

/-- A request that no test of R308 refuses and that breaks a precondition has no meaning (log 12). -/
theorem accept_of_not_precondition {r : Request} {s : State} (ht : s.tainted = false)
    (hc : s.refusalCause r = none) (hp : precondition s.sectorSize s.flashSize r = false) :
    accept r s = .refused .outsidePrecondition := by
  simp [accept, ht, hc, hp]

/-- Settles O34: whichever way it is submitted, the request reaches the test of its precondition. -/
theorem outsidePreconditionRefused : Obligations.OutsidePreconditionRefused := by
  intro s ht
  have refused {r : Request} (hsub : Submitting r s) (hc : s.refusalCause r = none)
      (hp : precondition s.sectorSize s.flashSize r = false) : step s = .refused .outsidePrecondition := by
    rw [hsub.step_eq]
    exact accept_of_not_precondition (s := { s with host := s.hostAfter }) ht hc hp
  refine ⟨fun off hsub hc hoff => refused hsub hc ?_, fun a p hsub hc hlen => refused hsub hc ?_⟩
  · exact decide_eq_false (by omega)
  · exact decide_eq_false (by omega)

end Sys2Proof.Machine
end

section
/-! PROOFS. The reference environment (R80, log 19): the countdown of a poll read, and the write of a
command word that starts the instruction the controller decodes. -/
namespace Sys2Proof.Machine

/-! ### Completion bits -/

@[simp] theorem getLsbD_clearBit_same (w : Word) (i : Nat) : (clearBit w i).getLsbD i = false := by
  rw [clearBit, BitVec.getLsbD_and, BitVec.getLsbD_not]
  by_cases h : i < 32
  · simp [getLsbD_bitMask_same true h]
  · simp [h]

theorem getLsbD_setBit_same (w : Word) {i : Nat} (h : i < 32) : (setBit w i).getLsbD i = true := by
  rw [setBit, BitVec.getLsbD_or, getLsbD_bitMask_same true h, Bool.or_true]

/-- Either completion signal is read from a register whose reads count down (R163, R80). -/
theorem pollReg_counts (pk : Signal) : pollReg pk = .cmd ∨ pollReg pk = .status := by
  cases pk <;> simp [pollReg]

/-! ### The countdown -/

theorem State.readReg_reference {s : State} (h : s.env.mode = .reference) (r : Reg) :
    s.readReg r = (true, (s.tickBusy r).regs.get r,
      (s.tickBusy r).log (.r (r.address s.cfg) ((s.tickBusy r).regs.get r))) := by
  simp [State.readReg, h]

/-- Before the last count a read only counts. -/
theorem State.tickBusy_before {s : State} (h : 1 < s.env.busy) {r : Reg} (hr : r = .cmd ∨ r = .status) :
    s.tickBusy r = { s with env := { s.env with busy := s.env.busy - 1 } } := by
  have hpos : 0 < s.env.busy := by omega
  have hne : s.env.busy - 1 ≠ 0 := by omega
  simp [State.tickBusy, hr, hpos, hne]

/-- At the last count the command completes. -/
theorem State.tickBusy_last {s : State} (h : s.env.busy = 1) {r : Reg} (hr : r = .cmd ∨ r = .status) :
    s.tickBusy r = State.finishBusy { s with env := { s.env with busy := 0 } } := by
  simp [State.tickBusy, hr, h]

@[simp] theorem State.complete_busy (s : State) : s.complete.env.busy = s.env.busy := by
  unfold State.complete
  split <;> rfl

/-- The command that finishes has its effect, and both bits read 0 (R80). -/
theorem State.finishBusy_of_running {s : State} {i : Instr} (h : s.flight = .running i) :
    s.finishBusy.env.busy = s.env.busy ∧ s.finishBusy.flight = .clear ∧
      s.finishBusy.dev = s.dev.apply s.cfg s.env.mode s.env.draws i ∧
      s.finishBusy.regs.cmd.getLsbD s.cfg.actBit = false ∧
      s.finishBusy.regs.status.getLsbD s.cfg.idleBit = false :=
  ⟨State.complete_busy s, complete_flight (by simp [h]), complete_dev_of_running h,
    getLsbD_clearBit_same _ _, getLsbD_clearBit_same _ _⟩

/-- Settles O49: a poll read ticks the countdown, and finishes the command at its end. -/
theorem referenceReadCountsDown : Obligations.ReferenceReadCountsDown := by
  intro s i pk hm hf _ _ hpend
  have hr := pollReg_counts pk
  refine ⟨fun hb => ⟨_, _, State.readReg_reference hm _, ?_⟩,
    fun hb => ⟨_, _, State.readReg_reference hm _, ?_⟩⟩
  · rw [State.tickBusy_before hb hr]
    exact ⟨hpend, rfl, rfl, rfl, rfl⟩
  · rw [State.tickBusy_last hb hr]
    obtain ⟨hbusy, hflight, hdev, hact, hidle⟩ :=
      State.finishBusy_of_running (s := { s with env := { s.env with busy := 0 } }) hf
    refine ⟨?_, hbusy, hflight, by simpa [hm] using hdev, hact, hidle⟩
    cases pk
    · exact hact
    · exact hidle

/-! ### The start of a command -/

theorem State.one_le_busyChoice (s : State) : 1 ≤ s.busyChoice := Nat.le_max_left _ _

/-- A word of the block that reaches the command register starts what the controller decodes: both bits
set, `busy` chosen, the device as before (R80). -/
theorem State.writeReg_cmd_reference {s : State} {w : Word} {j : Instr} (hm : s.env.mode = .reference)
    (hact : w.getLsbD s.cfg.actBit = true)
    (hj : decodeStaged s.cfg w s.regs.addr s.regs.buf.toList = some j) :
    s.writeReg .cmd w = (true, ({ s with
      regs := { s.regs with cmd := w, status := setBit s.regs.status s.cfg.idleBit }
      issued := true
      flight := .running j
      env := { s.env with
        busy := s.busyChoice
        busyTape := s.env.busyTape.tail
        draws := s.env.draws + 1 } } : State).log (.w s.cfg.aCmd w)) := by
  have hflight : (s.putReg .cmd w).flightOf w = .running j := by
    simp [State.flightOf, State.putReg, Regs.put, hj]
  simp [State.writeReg, State.landed, State.trigger, State.startBusy, State.busyChoice, Reg.address,
    Regs.put, hm, hact, hflight]

/-- The idle bit of a well-formed configuration is a bit of the status register (R7). -/
theorem idleBit_lt {c : Cfg} (h : c.wf = true) : c.idleBit < 32 := by
  simp only [Cfg.wf, Cfg.wfMfr, Bool.and_eq_true, decide_eq_true_eq] at h
  obtain ⟨⟨⟨⟨-, -, -, hidle⟩, -⟩, -⟩, -⟩ := h
  exact hidle

/-- Settles O51: the command word of a well-formed instruction starts what the controller decodes of it. -/
theorem referenceIssueStartsTheCommand : Obligations.ReferenceIssueStartsTheCommand := by
  intro i s hc hi hm hp hf haddr hbuf
  have hact : (encIns s.cfg (i.ins s.cfg)).getLsbD s.cfg.actBit = true :=
    congrArg Fields.act (dec_encIns hc hi)
  have hw := State.writeReg_cmd_reference hm hact
    (controllerDecodesTheInstruction s.cfg i s.regs.addr s.regs.buf.toList hc hi haddr hbuf)
  refine ⟨_, exec_issue hp hf, ?_⟩
  rw [State.issueStep, hw]
  exact ⟨rfl, rfl, rfl, s.one_le_busyChoice, rfl, rfl, hact, getLsbD_setBit_same _ (idleBit_lt hc)⟩

end Sys2Proof.Machine
end

section
/-! PROOFS. Encoder and decoder agree: the register writes of an instruction decode to it, and an accepted
word is an encoded one (R106, R110, R111, R115, R187). -/
namespace Sys2Proof

/-! ### LENGTH and the staged bytes -/

@[simp] theorem lengthField_zero (c : Cfg) : lengthField c 0 = 0#32 := rfl

@[simp] theorem lengthField_one (c : Cfg) : lengthField c 1 = 0#32 := by simp [lengthField]

/-- Settles O2: LENGTH of no byte and of one byte is 0, and one word is staged per started four bytes. -/
theorem zeroBytesOmitLength : Obligations.ZeroBytesOmitLength := by
  intro c id a w d p
  exact ⟨by simp [enc], lengthField_zero c, lengthField_one c, rfl, fun _ => by simp [stage, divUp]⟩

/-- The values staged are the payload's words. -/
theorem map_snd_stage (c : Cfg) (p : List Byte) : (stage c p).map Prod.snd = stageWords p := by
  simp [stage, stageWords, Function.comp_def]

/-- The registers staged to are the buffer's, from the first on. -/
theorem map_fst_stage (c : Cfg) (p : List Byte) :
    (stage c p).map Prod.fst = (List.range (stage c p).length).map (bufAddr c) := by
  simp [stage, Function.comp_def]

/-- LENGTH and the number of staged words give the byte count back, no byte included (R105, R106). -/
theorem byteCount_lengthByte {hasData : Bool} {n : Nat} (hn : n ≤ bufBytes)
    (hdata : hasData = false → n = 0) : byteCount hasData (lengthByte n) (divUp n 4) = n := by
  obtain rfl | hpos := Nat.eq_zero_or_pos n
  · cases hasData <;> rfl
  · have hd : hasData = true := by
      cases hasData
      · exact absurd (hdata rfl) hpos.ne'
      · rfl
    have hwords : divUp n 4 ≠ 0 := (divUp_pos.mpr hpos).ne'
    simp [byteCount, hd, hwords, lengthByte_toNat hpos hn, Nat.sub_add_cancel hpos]

/-! ### Decoding an encoded instruction -/

/-- The address write is split off where there is one (R73). -/
theorem takeAddress_append (c : Cfg) (hasAddr : Bool) (a : Word) (ws : List RegWrite) :
    takeAddress c hasAddr ((if hasAddr then [(c.aAddr, a)] else []) ++ ws) =
      some (if hasAddr then a else 0#32, ws) := by
  cases hasAddr <;> simp [takeAddress]

/-- An instruction whose row has no address has the operand 0 (R118). -/
theorem address_of_hasAddr (c : Cfg) (i : Instr) :
    (if (row c i.mnemonic).hasAddr then i.address else 0#32) = i.address := by
  cases i <;> rfl

/-- An instruction whose row has no data phase has no payload (R110). -/
theorem payload_eq_nil_of_not_hasData {c : Cfg} {i : Instr} (h : (row c i.mnemonic).hasData = false) :
    i.payload = [] := by
  cases i with
  | wren | se | ce => rfl
  | pp | wrsr1 | wrsr2 | wrsr1w => cases h

theorem assemble_operands (i : Instr) : assemble i.mnemonic i.address i.payload = some i := by
  cases i <;> rfl

/-- The buffer writes of an instruction decode to it, given its row and its address. -/
theorem decodePayload_stage (c : Cfg) {i : Instr} (hi : i.wf = true) :
    decodePayload c i.mnemonic (lengthByte i.payload.length) i.address (stage c i.payload) = .ok i := by
  have hcount := byteCount_lengthByte (hasData := (row c i.mnemonic).hasData)
    (Instr.payload_length_le hi) fun h => by simp [payload_eq_nil_of_not_hasData h]
  simp [decodePayload, map_snd_stage, ← map_fst_stage, hcount, unstage_stageWords, assemble_operands]

/-- Settles O3: the last write gives the row, and the writes before it give the operands. -/
theorem decodeOfEncode : Obligations.DecodeOfEncode := by
  intro c i hc hi
  obtain ⟨hlast, -, hinit⟩ := Laws.encode_shape i c
  have haddr : takeAddress c (row c i.mnemonic).hasAddr (encode c i).dropLast =
      some (i.address, stage c i.payload) := by
    rw [hinit]
    exact (takeAddress_append ..).trans (by rw [address_of_hasAddr])
  simp [decode, hlast, commandOf_encIns hc hi, haddr, dec_encIns hc hi, decodePayload_stage c hi]

/-! ### Accepted words -/

/-- What the decoder asks of a word: no unnamed bit, and the fields of the row (R111, R115). -/
theorem named_and_rowMatches_of_commandOf {c : Cfg} {w : Word} {m : Mnemonic} (h : commandOf c w = .ok m) :
    w &&& ~~~(fieldMask c) = 0#32 ∧ rowMatches c (dec c w) m = true := by
  unfold commandOf at h
  split at h
  · cases h
  · split at h
    · cases h
    · next hmask =>
      split at h
      · next hfind =>
        cases h
        exact ⟨not_not.mp hmask, List.find?_some hfind⟩
      · cases h

/-- A bit set in a word without unnamed bits is a named one. -/
theorem getLsbD_fieldMask_of_named {c : Cfg} {w : Word} (h : w &&& ~~~(fieldMask c) = 0#32) {i : Nat}
    (hi : w.getLsbD i = true) : (fieldMask c).getLsbD i = true := by
  have hbit : (w &&& ~~~(fieldMask c)).getLsbD i = false := by rw [h, BitVec.getLsbD_zero]
  simpa [hi, BitVec.lt_of_getLsbD hi] using hbit

/-- Words with one byte in common at `lsb` agree on the bits of that byte's mask. -/
theorem getLsbD_eq_of_byteAt_eq {w u : Word} {lsb i : Nat} (h : byteAt w lsb = byteAt u lsb)
    (hi : (0xFF#32 <<< lsb).getLsbD i = true) : w.getLsbD i = u.getLsbD i := by
  have hmask : (0xFF#32 : Word) = (BitVec.allOnes 8).setWidth 32 := by decide
  rw [hmask, getLsbD_field] at hi
  simp only [Bool.and_eq_true, decide_eq_true_eq, BitVec.getLsbD_allOnes] at hi
  obtain ⟨⟨-, hle⟩, hlt⟩ := hi
  have hbit : (byteAt w lsb).getLsbD (i - lsb) = (byteAt u lsb).getLsbD (i - lsb) := by rw [h]
  simpa only [getLsbD_byteAt, hlt, Nat.add_sub_cancel' hle, decide_true, Bool.true_and] using hbit

/-- Words that read back to the same fields agree on every named bit. -/
theorem getLsbD_eq_of_dec_eq {c : Cfg} {w u : Word} (h : dec c w = dec c u) {i : Nat}
    (hi : (fieldMask c).getLsbD i = true) : w.getLsbD i = u.getLsbD i := by
  simp only [dec, Fields.mk.injEq] at h
  obtain ⟨hact, hpoll, hlen, haddr, hwr, hdata, hid⟩ := h
  have bit {j : Nat} (hj : w.getLsbD j = u.getLsbD j) (hb : (bitMask true j).getLsbD i = true) :
      w.getLsbD i = u.getLsbD i := by
    simp only [getLsbD_bitMask, Bool.true_and, Bool.and_eq_true, decide_eq_true_eq] at hb
    rw [hb.1, hj]
  simp only [fieldMask, BitVec.getLsbD_or, Bool.or_eq_true] at hi
  obtain (((((hi | hi) | hi) | hi) | hi) | hi) | hi := hi
  · exact bit hact hi
  · exact bit hpoll hi
  · exact getLsbD_eq_of_byteAt_eq hlen hi
  · exact bit haddr hi
  · exact bit hwr hi
  · exact bit hdata hi
  · exact getLsbD_eq_of_byteAt_eq hid hi

/-- A word without unnamed bits is determined by its fields. -/
theorem eq_of_dec_eq {c : Cfg} {w u : Word} (hw : w &&& ~~~(fieldMask c) = 0#32)
    (hu : u &&& ~~~(fieldMask c) = 0#32) (h : dec c w = dec c u) : w = u := by
  apply BitVec.eq_of_getLsbD_eq
  intro i _
  cases hm : (fieldMask c).getLsbD i with
  | true => exact getLsbD_eq_of_dec_eq h hm
  | false =>
    have clear {v : Word} (hv : v &&& ~~~(fieldMask c) = 0#32) : v.getLsbD i = false :=
      Bool.eq_false_iff.mpr fun hb => Bool.eq_false_iff.mp hm (getLsbD_fieldMask_of_named hv hb)
    rw [clear hw, clear hu]

/-- Every LENGTH is the one of the byte count one above it (R105). -/
theorem lengthByte_toNat_add_one (l : Byte) : lengthByte (l.toNat + 1) = l := by
  simp [lengthByte]

/-- Settles O4: the encoder's word for the row and LENGTH + 1 bytes has the accepted word's fields. -/
theorem acceptedWordsAreEncoded : Obligations.AcceptedWordsAreEncoded := by
  intro c w m hc h
  obtain ⟨hnamed, hrow⟩ := named_and_rowMatches_of_commandOf h
  obtain ⟨hact, hpoll, hlen, haddr, hwr, hdata, hid⟩ := rowMatches_iff.mp hrow
  have hn : (dec c w).len.toNat + 1 ≤ bufBytes := (dec c w).len.isLt
  refine ⟨(dec c w).len.toNat + 1, Nat.le_add_left .., hn, by simpa using hlen, ?_⟩
  apply eq_of_dec_eq hnamed (enc_and_not_fieldMask c _ _ _ _ _ hn)
  rw [dec_enc hc _ _ _ _ _ hn, lengthByte_toNat_add_one, ← hact, ← hpoll, ← haddr, ← hwr, ← hdata, ← hid]

/-- Settles O7: closed words of the reference configuration, with operand words of zeros (log 7). -/
theorem tableWordsDecode : Obligations.TableWordsDecode := by
  unfold Obligations.TableWordsDecode
  decide

end Sys2Proof
end

section
/-! PROOFS. The machine runs what a placed word decodes to, and refuses a word of no row (R111). -/
namespace Sys2Proof.Machine

@[simp] theorem State.place_q (r : Request) (e : Elem) (s : State) : (s.place r e).q = [e] := by
  simp [State.place]

/-- An instruction placed in the queue begins in one of its transactions (R181). -/
theorem place_ins_ph (r : Request) (i : Instr) (s : State) :
    (s.place r (.ins i)).ph = .addr ∨ (s.place r (.ins i)).ph = .buf ∨ (s.place r (.ins i)).ph = .issue := by
  simp only [State.place, State.start, State.begin]
  split
  · exact .inl rfl
  · split
    · exact .inr (.inl rfl)
    · exact .inr (.inr rfl)

/-- A placed instruction is the one the next step runs. -/
theorem step_place_ins (r : Request) (i : Instr) (s : State) :
    step (s.place r (.ins i)) = exec i (s.place r (.ins i)) :=
  stepRunsTheHead _ i [] (State.place_q ..) ((place_ins_ph r i s).imp_right (Or.imp_right .inl))

/-- A placed word that is none of the block's is refused by the next step (R111). -/
theorem step_place_illegal (r : Request) (w : Word) (s : State) :
    step (s.place r (.illegal w)) = .refused (.notOfThisBlock w) := rfl

/-- Settles O9: `withFetchWord` places the instruction decoded, or the word as it is. -/
theorem stepRunsThePlacedWord : Obligations.StepRunsThePlacedWord := by
  intro s nbits w
  refine ⟨fun i hi => ?_, fun hnone => ?_⟩
  · have hplace : s.withFetchWord nbits w = s.place (.single i) (.ins i) := by
      simp [State.withFetchWord, hi]
    rw [hplace]
    exact ⟨State.place_q .., step_place_ins ..⟩
  · have hplace : s.withFetchWord nbits w = s.place s.req (.illegal (BitVec.ofNat 32 w)) := by
      simp [State.withFetchWord, hnone]
    rw [hplace]
    exact step_place_illegal ..

end Sys2Proof.Machine
end

section
/-! PROOFS. The five laws of the encoder (R143). -/
namespace Sys2Proof

/-! ### Equal words -/

/-- LENGTH tells byte counts apart up to the case of no byte and one byte (R105, R106). -/
theorem lengthByte_eq_iff {n m : Nat} (hn : n ≤ bufBytes) (hm : m ≤ bufBytes) :
    lengthByte n = lengthByte m ↔ n = m ∨ (n = 0 ∧ m = 1) ∨ (n = 1 ∧ m = 0) := by
  have toNat_eq {k : Nat} (hk : k ≤ bufBytes) : (lengthByte k).toNat = k - 1 := by
    obtain rfl | hpos := Nat.eq_zero_or_pos k
    · rfl
    · exact lengthByte_toNat hpos hk
  rw [← BitVec.toNat_inj, toNat_eq hn, toNat_eq hm]
  omega

/-- Encoded words are equal when the fields read back are (R143 (c)). -/
theorem enc_eq_iff {c : Cfg} (h : c.wf = true) {id id' : Byte} {a w d p a' w' d' p' : Bool} {n n' : Nat}
    (hn : n ≤ bufBytes) (hn' : n' ≤ bufBytes) :
    enc c id a w d p n = enc c id' a' w' d' p' n' ↔
      id = id' ∧ a = a' ∧ w = w' ∧ d = d' ∧ p = p' ∧ (n = n' ∨ (n = 0 ∧ n' = 1) ∨ (n = 1 ∧ n' = 0)) := by
  calc enc c id a w d p n = enc c id' a' w' d' p' n'
    _ ↔ dec c (enc c id a w d p n) = dec c (enc c id' a' w' d' p' n') :=
      ⟨congrArg (dec c), eq_of_dec_eq (enc_and_not_fieldMask c _ _ _ _ _ hn)
        (enc_and_not_fieldMask c _ _ _ _ _ hn')⟩
    _ ↔ _ := by
      rw [dec_enc h _ _ _ _ _ hn, dec_enc h _ _ _ _ _ hn', Fields.mk.injEq, lengthByte_eq_iff hn hn']
      tauto

/-! ### Lanes and addresses of the staging -/

/-- A lane of the staging is the payload's byte, 0 beyond the payload (R109, R143 (d)). -/
theorem laneOf_stageWords {p : List Byte} {i : Nat} (h : i < 4 * divUp p.length 4) :
    laneOf (stageWords p) i = payloadByte p i := by
  have hword : i / 4 < divUp p.length 4 := Nat.div_lt_of_lt_mul h
  rw [laneOf, getElem?_stageWords hword, Option.getD_some, byteAt_stageWord _ _ (Nat.mod_lt _ (by decide)),
    Nat.div_add_mod]

/-- The registers staged to are those of the payload's words (R143 (e)). -/
theorem map_fst_stage_eq_range (c : Cfg) (p : List Byte) :
    (stage c p).map Prod.fst = (List.range (divUp p.length 4)).map (bufAddr c) := by
  rw [map_fst_stage, stage, List.length_map, List.length_range]

/-- The addresses of the buffer registers do not wrap around (R8 (b)). -/
theorem bufAddr_toNat {c : Cfg} (h : c.wf = true) {k : Nat} (hk : k < bufWords) :
    (bufAddr c k).toNat = c.aBuf0.toNat + 4 * k := by
  simp only [Cfg.wf, Cfg.wfAddresses, Bool.and_eq_true, decide_eq_true_eq] at h
  obtain ⟨⟨⟨⟨⟨-, -, -, hfit, -⟩, -⟩, -⟩, -⟩, -⟩ := h
  have hlt : c.aBuf0.toNat + 4 * k < 2 ^ 32 := by omega
  rw [bufAddr, BitVec.toNat_add, BitVec.toNat_ofNat, Nat.add_mod_mod, Nat.mod_eq_of_lt hlt]

/-- The buffer is staged in ascending order (R109, R143 (e)). -/
theorem pairwise_stage_addresses {c : Cfg} (h : c.wf = true) {p : List Byte} (hp : p.length ≤ bufBytes) :
    ((stage c p).map Prod.fst).Pairwise (fun a b => a.toNat < b.toNat) := by
  rw [map_fst_stage_eq_range, List.pairwise_map]
  refine List.pairwise_lt_range.imp_of_mem fun {j k} hj hk hjk => ?_
  have inBuffer {i : Nat} (hi : i ∈ List.range (divUp p.length 4)) : i < bufWords :=
    (List.mem_range.mp hi).trans_le (divUp_le_bufWords hp)
  rw [bufAddr_toNat h (inBuffer hj), bufAddr_toNat h (inBuffer hk)]
  omega

/-- Settles O1, law by law: (a) and (b) from the word's bits, (c) from (a) and (b), (d) lane by lane, (e)
from the buffer's addresses. -/
theorem encoderLaws : Obligations.EncoderLaws := by
  intro c hc
  refine ⟨fun id a w d p n => dec_enc hc id a w d p, fun id a w d p n => enc_and_not_fieldMask c id a w d p,
    fun _ _ _ _ _ _ _ _ _ _ _ _ => enc_eq_iff hc, fun p hp => ⟨?_, ?_, length_stageWords p,
      divUp_le_bufWords hp⟩, fun p hp => ⟨?_, pairwise_stage_addresses hc hp⟩⟩
  · exact fun i hi => laneOf_eq hi (getElem?_stageWords (div_lt_divUp hi))
  · intro i hi hlast
    rw [laneOf_stageWords hlast, payloadByte, List.getElem?_eq_none hi, Option.getD_none]
  · intro a ha
    rw [map_fst_stage_eq_range] at ha
    obtain ⟨k, hk, rfl⟩ := List.mem_map.mp ha
    exact ⟨k, (List.mem_range.mp hk).trans_le (divUp_le_bufWords hp), rfl⟩

end Sys2Proof
end

section
/-! PROOFS. How `encode` and `stage` are answered at acceptance (R116, R140, R141; log 25). -/
namespace Sys2Proof.Machine

/-! ### The test of the length -/

/-- No sector is found protected where none is targeted. -/
theorem anyProtected_none (i : Nat) (l : List Sector) : anyProtected none i l = false := by
  induction l generalizing i with
  | nil => rfl
  | cons x xs ih => simp [anyProtected, targeted, ih]

/-- A request that is not gated and targets no sector can only be too long (R308). -/
theorem refusalCause_of_untargeted {r : Request} {s : State} (hg : gated r = false)
    (ht : targets s.sectorSize s.sectors.length r = none) :
    s.refusalCause r = if bufBytes < requestLength r then some .badLength else none := by
  simp [State.refusalCause, hg, ht, anyProtected_none]

/-- A request that a test of R308 refuses ends with that protocol failure (R301). -/
theorem accept_of_refusalCause {r : Request} {s : State} {x : Cause} (ht : s.tainted = false)
    (hc : s.refusalCause r = some x) : accept r s = .next ((s.latch r).raise (.protocol x)) := by
  simp [accept, ht, hc, State.latch]

/-- A protocol failure ends the operation and changes nothing else. -/
theorem State.raise_protocol (x : Cause) (s : State) :
    s.raise (.protocol x) = { s with q := [], res := .protocol x, ph := .done } := by
  simp [State.raise, State.sectorsAfter, taints]

/-! ### The answers -/

@[simp] theorem hostAfter_outWord (s : State) : s.hostAfter.outWord = s.host.outWord := by
  unfold State.hostAfter
  split <;> rfl

@[simp] theorem hostAfter_outWrites (s : State) : s.hostAfter.outWrites = s.host.outWrites := by
  unfold State.hostAfter
  split <;> rfl

/-- `encode` within the buffer is answered with the command word (R140). -/
theorem accept_encode {s : State} (ht : s.tainted = false) (id : Byte) (a w d p : Bool) {n : Nat}
    (hn : n ≤ bufBytes) : accept (.encode id a w d p n) s =
      .next ((s.latch (.encode id a w d p n)).returned (enc s.cfg id a w d p n) s.host.outWrites) := by
  have hc : s.refusalCause (.encode id a w d p n) = none :=
    (refusalCause_of_untargeted rfl rfl).trans (if_neg hn.not_gt)
  simp [accept, ht, hc, precondition, State.latch]

/-- `stage` within the buffer is answered with the buffer writes (R141). -/
theorem accept_stage {s : State} (ht : s.tainted = false) {p : List Byte} (hp : p.length ≤ bufBytes) :
    accept (.stage p) s = .next ((s.latch (.stage p)).returned s.host.outWord (stage s.cfg p)) := by
  have hc : s.refusalCause (.stage p) = none :=
    (refusalCause_of_untargeted rfl rfl).trans (if_neg hp.not_gt)
  simp [accept, ht, hc, precondition, State.latch]

/-- A request that is not gated and targets no sector ends with BAD_LENGTH beyond the buffer (R116). -/
theorem step_of_badLength {r : Request} {s : State} (ht : s.tainted = false) (hsub : Submitting r s)
    (hg : gated r = false) (hs : targets s.sectorSize s.sectors.length r = none)
    (hlen : bufBytes < requestLength r) :
    step s = .next { s with
      req := r, q := [], res := .protocol .badLength, ph := .done, trace := [], host := s.hostAfter } := by
  have hc : State.refusalCause { s with host := s.hostAfter } r = some .badLength :=
    (refusalCause_of_untargeted hg hs).trans (if_pos hlen)
  rw [hsub.step_eq, accept_of_refusalCause (s := { s with host := s.hostAfter }) ht hc, State.raise_protocol]
  rfl

/-- Settles O32: within the buffer the request is answered with its value, beyond it with BAD_LENGTH. -/
theorem encodeAndStageAnswer : Obligations.EncodeAndStageAnswer := by
  intro s ht
  refine ⟨fun id a w d p n hsub => ⟨fun hn => ?_, fun hn => ?_⟩, fun p hsub => ⟨fun hp => ?_, fun hp => ?_⟩⟩
  · rw [hsub.step_eq, accept_encode (s := { s with host := s.hostAfter }) ht _ _ _ _ _ hn]
    simp [State.returned, State.latch]
  · rw [step_of_badLength ht hsub rfl rfl hn, ← hostAfter_outWord s, ← hostAfter_outWrites s]
  · rw [hsub.step_eq, accept_stage (s := { s with host := s.hostAfter }) ht hp]
    simp [State.returned, State.latch]
  · rw [step_of_badLength ht hsub rfl rfl hp, ← hostAfter_outWord s, ← hostAfter_outWrites s]

end Sys2Proof.Machine
end

section
/-! PROOFS. The poller (R161 to R169): one step of phase WAIT by the answer it gets, for an instruction and for
the bare wait (R164, log 40), and `wait` as a function of all its answers (R163). -/
namespace Sys2Proof.Machine

/-! ### One step of phase WAIT -/

/-- A read that answers ok is recorded with its value. -/
theorem Answered.readReg_trace_ok {s : State} {d : Draw} {ds : List Draw} (h : Answered s d ds)
    (hok : d.ok = true) (r : Reg) :
    (s.readReg r).2.2.trace = s.trace ++ [.r (r.address s.cfg) d.value] := by
  rw [h.read_ok hok, State.log_trace]

/-- A read that answers not ok is recorded without a value. -/
theorem Answered.readReg_trace_fail {s : State} {d : Draw} {ds : List Draw} (h : Answered s d ds)
    (hok : d.ok = false) (r : Reg) : (s.readReg r).2.2.trace = s.trace ++ [.rFail (r.address s.cfg)] := by
  rw [h.read_fail hok, State.log_trace]

/-- The count is compared before anything is read (R164). -/
theorem waitStep_of_timeout {s : State} {n : Nat} (h : s.cnt = n) (pk : Signal) :
    s.waitStep pk n = s.raise .busy := by
  simp [State.waitStep, h]

/-- A poll read that answers not ok aborts, whatever its value (R164, R169 (c)). -/
theorem Answered.waitStep_fail {s : State} {d : Draw} {ds : List Draw} (h : Answered s d ds) {n : Nat}
    (hn : s.cnt ≠ n) (hok : d.ok = false) (pk : Signal) :
    s.waitStep pk n = (s.readReg (pollReg pk)).2.2.raise .transport := by
  simp [State.waitStep, hn, h.read_fail hok]

/-- A poll read that shows the bit set leads to one more (R164). -/
theorem Answered.waitStep_pending {s : State} {d : Draw} {ds : List Draw} (h : Answered s d ds) {n : Nat}
    (hn : s.cnt ≠ n) (hok : d.ok = true) {pk : Signal} (hp : pending s.cfg pk d.value = true) :
    s.waitStep pk n = (s.readReg (pollReg pk)).2.2.pollAgain pk := by
  simp [State.waitStep, hn, h.read_ok hok, hp]

/-- A poll read that shows the bit clear ends the head of the queue (R164, R185). -/
theorem Answered.waitStep_clear {s : State} {d : Draw} {ds : List Draw} (h : Answered s d ds) {n : Nat}
    (hn : s.cnt ≠ n) (hok : d.ok = true) {pk : Signal} (hp : pending s.cfg pk d.value = false) :
    s.waitStep pk n = (s.readReg (pollReg pk)).2.2.finishHead := by
  simp [State.waitStep, hn, h.read_ok hok, hp]

/-- The end of the last element ends the operation OK (R185). -/
theorem finishHead_of_last {s : State} (h : s.q.tail = []) :
    s.finishHead.ph = .done ∧ s.finishHead.res = .ok := by
  obtain ⟨-, he⟩ | ⟨hne, -⟩ := finishHead_cases s
  · rw [he]
    exact ⟨rfl, rfl⟩
  · exact absurd h hne

/-- What a poll that shows the bit set does to `tainted` (R47, log 14). -/
theorem pollAgain_tainted_cases (pk : Signal) (s : State) :
    (pk = .act → s.issued = false → (s.pollAgain pk).tainted = true) ∧
    (pk = .idle ∨ s.issued = true → (s.pollAgain pk).tainted = s.tainted) := by
  refine ⟨fun hpk hi => ?_, fun hor => ?_⟩
  · simp [hpk, hi]
  · obtain hpk | hi := hor
    · simp [hpk]
    · simp [hi]

/-- A bare poll at the head of the queue is the wait of its own signal and timeout (log 40). -/
theorem step_poll {s : State} {pk : Signal} {n : Nat} {es : List Elem} (hp : s.ph = .wait)
    (hq : s.q = .poll pk n :: es) : step s = .next (s.waitStep pk n) := by
  simp [step, fetch, hp, hq]

/-- Under the free oracle a wait changes nothing of the device while no command is in flight. -/
theorem waitStep_dev_of_clear {s : State} (hm : s.env.mode = .oracle) (hf : s.flight = .clear) (pk : Signal)
    (n : Nat) : (s.waitStep pk n).dev = s.dev := by
  obtain ⟨hdev, hflight, -⟩ := State.readReg_oracle hm (pollReg pk)
  obtain ⟨-, he⟩ | ⟨-, v, s1, hr, he⟩ | ⟨-, v, s1, hr, ⟨-, he⟩ | ⟨-, he⟩⟩ := waitStep_cases pk n s <;>
    rw [he]
  · rfl
  · obtain rfl := snd_of_readReg hr
    exact hdev
  · obtain rfl := snd_of_readReg hr
    exact hdev
  · obtain rfl := snd_of_readReg hr
    rw [finishHead_dev, complete_of_clear (hflight.trans hf), hdev]

/-- Settles O13: an instruction's wait and the bare one are the same step, taken apart by the count and the
answer. -/
theorem waitPhase : Obligations.WaitPhase := by
  unfold Obligations.WaitPhase
  intro waits
  have waitStep_waits {s : State} (hp : s.ph = .wait) (pk : Signal) (n : Nat) :
      waits s pk n (.next (s.waitStep pk n)) := by
    refine ⟨fun hn => ⟨_, rfl, ?_⟩, fun d ds hn hd => ⟨fun hok => ⟨_, rfl, ?_⟩,
      fun hok hpend => ⟨_, rfl, ?_⟩, fun hok hclear => ⟨_, rfl, ?_⟩⟩⟩
    · rw [waitStep_of_timeout hn]
      simp [taints]
    · rw [hd.waitStep_fail hn hok]
      simp [taints, hp, hd.readReg_trace_fail hok]
    · obtain ⟨hdev, hflight, -⟩ := State.readReg_oracle hd.1 (pollReg pk)
      obtain ⟨hset, hkept⟩ := pollAgain_tainted_cases pk (s.readReg (pollReg pk)).2.2
      rw [State.readReg_issued, State.readReg_tainted] at hkept
      rw [State.readReg_issued] at hset
      have hr := transacted_readReg (pollReg pk) s
      rw [hd.waitStep_pending hn hok hpend]
      exact ⟨congrArg (· + 1) hr.cnt, hr.ph.trans hp, hr.q, hdev, hflight, State.readReg_issued _ s,
        hr.sectors, hset, hkept, hd.readReg_trace_ok hok _⟩
    · have hr := transacted_readReg (pollReg pk) s
      rw [hd.waitStep_clear hn hok hclear]
      exact ⟨by rw [finishHead_q, hr.q], by rw [State.finishHead_tainted, hr.tainted],
        by rw [State.finishHead_trace, hd.readReg_trace_ok hok],
        fun hlast => finishHead_of_last (by rwa [hr.q])⟩
  refine ⟨fun i s hp => ?_, fun s pk n es hp hq => ?_⟩
  · rw [exec_wait hp]
    exact waitStep_waits hp _ _
  · rw [step_poll hp hq]
    refine ⟨waitStep_waits hp pk n, fun hm hf t ht => ?_⟩
    cases ht
    exact waitStep_dev_of_clear hm hf pk n

/-! ### The wait as a function of its answers -/

/-- The transactions of poll reads that answer ok (R163). -/
def pollReads (c : Cfg) (pk : Signal) (ans : List Draw) : List Txn :=
  ans.map fun d => .r ((pollReg pk).address c) d.value

/-- The answer is ok and shows the polled bit set: the wait goes on (R163). -/
def Draw.keepsWaiting (c : Cfg) (pk : Signal) (d : Draw) : Prop :=
  d.ok = true ∧ pending c pk d.value = true

theorem Run.after_nil : Run.after [] = id := rfl

/-- Answers that keep the wait going are read one by one, and the wait goes on behind them. -/
theorem waitRun_append {c : Cfg} {pk : Signal} {wait : List Draw} (h : ∀ d ∈ wait, d.keepsWaiting c pk)
    (n : Nat) (ans : List Draw) :
    waitRun c pk (wait.length + n) (wait ++ ans) =
      (waitRun c pk n ans).map (Run.after (pollReads c pk wait)) := by
  induction wait with
  | nil => simp [pollReads, Run.after_nil]
  | cons d wait ih =>
    obtain ⟨⟨hok, hpend⟩, hwait⟩ := List.forall_mem_cons.mp h
    have hlen : (d :: wait).length + n = (wait.length + n) + 1 := by
      rw [List.length_cons]
      omega
    rw [hlen, List.cons_append, waitRun, if_pos hok, if_pos hpend, ih hwait, Option.map_map]
    rfl

/-- The first answer that is not ok, or shows the bit clear, ends the wait (R163). -/
theorem waitRun_of_hit {c : Cfg} {pk : Signal} {d : Draw} (h : d.ok = false ∨ pending c pk d.value = false)
    (n : Nat) (ans : List Draw) :
    waitRun c pk (n + 1) (d :: ans) = some (if d.ok then ⟨pollReads c pk [d], .ok, ans⟩
      else ⟨[.rFail ((pollReg pk).address c)], .transport, ans⟩) := by
  cases hok : d.ok with
  | false => simp [waitRun, hok]
  | true =>
    have hclear : pending c pk d.value = false := h.resolve_left (by simp [hok])
    simp [waitRun, hok, hclear, pollReads]

/-- What holds at every index below `j` holds of the first `j` elements. -/
theorem forall_mem_take {α : Type} {p : α → Prop} {ans : List α} {j : Nat}
    (h : ∀ l (hl : l < ans.length), l < j → p ans[l]) : ∀ d ∈ ans.take j, p d := by
  intro d hd
  obtain ⟨l, hl, rfl⟩ := List.mem_take_iff_getElem.mp hd
  exact h l (by omega) (by omega)

/-- Settles O38: the answers before the first hit are read, then the hit ends the wait, or the count does. -/
theorem waitReadsToTheFirstHit : Obligations.WaitReadsToTheFirstHit := by
  intro c pk n ans hn reads
  refine ⟨fun j hj hjn hhit hbefore => ?_, fun hall => ?_⟩
  · have hrun := waitRun_append (forall_mem_take hbefore) (n - j - 1 + 1) (ans[j] :: ans.drop (j + 1))
    have hcount : (ans.take j).length + (n - j - 1 + 1) = n := by
      rw [List.length_take]
      omega
    rw [hcount, ← List.drop_eq_getElem_cons hj, List.take_append_drop, List.drop_eq_getElem_cons hj,
      waitRun_of_hit hhit] at hrun
    rw [hrun]
    split
    · rw [← List.take_append_getElem hj]
      simp only [reads, List.map_append]
      rfl
    · rfl
  · have hrun := waitRun_append (forall_mem_take hall) 0 (ans.drop n)
    have hcount : (ans.take n).length + 0 = n := List.length_take_of_le hn
    rw [hcount, List.take_append_drop] at hrun
    rw [hrun]
    simp [waitRun, Run.after, reads, pollReads]

end Sys2Proof.Machine
end

section
/-! PROOFS. The sequence driver (R180 to R187): one register write of an instruction by the answer it gets
(R182 to R184), the end of an instruction (R185), acceptance (R180) and collection (R186). -/
namespace Sys2Proof.Machine

/-! ### One register write of an instruction -/

/-- A write that answers not ok, and the abort after it: the write is recorded, the answer is used up, and
`tainted` is set where the phase says so (R310). -/
theorem Answered.raise_writeReg_fail {s : State} {d : Draw} {ds : List Draw} (h : Answered s d ds)
    (hok : d.ok = false) (r : Reg) (v : Word) :
    ((s.writeReg r v).2.raise .transport).trace = s.trace ++ [.wFail (r.address s.cfg) v] ∧
      ((s.writeReg r v).2.raise .transport).env = s.env.next ds := by
  simp [h.write_fail hok]

/-- Phase ADDR where the write answers ok (R182). -/
theorem Answered.addrStep_ok {s : State} {d : Draw} {ds : List Draw} (h : Answered s d ds)
    (hok : d.ok = true) (i : Instr) :
    s.addrStep (i.ins s.cfg) = { s with
      regs := { s.regs with addr := i.address }
      env := s.env.next ds
      trace := s.trace ++ [.w s.cfg.aAddr i.address]
      k := if i.payload ≠ [] then 0 else s.k
      ph := if i.payload ≠ [] then .buf else .issue } := by
  rw [State.addrStep, h.write_ok hok, State.landed_plain (by simp)]
  by_cases hp : i.payload = []
  · simp only [Instr.ins_payload, hp, ne_eq, not_true, if_false]
    rfl
  · simp only [Instr.ins_payload, hp, ne_eq, not_false_iff, if_true]
    rfl

/-- Phase ADDR where the write answers not ok (R182). -/
theorem Answered.addrStep_fail {s : State} {d : Draw} {ds : List Draw} (h : Answered s d ds)
    (hok : d.ok = false) (e : Ins) :
    s.addrStep e = (s.writeReg .addr e.addr).2.raise .transport := by
  simp [State.addrStep, h.write_fail hok]

/-- Phase BUF where the write answers ok (R183). -/
theorem Answered.bufStep_ok {s : State} {d : Draw} {ds : List Draw} (h : Answered s d ds)
    (hok : d.ok = true) (hp : s.ph = .buf) (e : Ins) (w : Word) :
    s.bufStep e w = { s with
      regs := { s.regs with buf := s.regs.buf.setIfInBounds s.k w }
      env := s.env.next ds
      trace := s.trace ++ [.w (bufAddr s.cfg s.k) w]
      k := s.k + 1
      ph := if s.k + 1 = divUp e.payload.length 4 then .issue else .buf } := by
  rw [State.bufStep, h.write_ok hok, State.landed_plain (by simp)]
  by_cases hk : s.k + 1 = divUp e.payload.length 4
  · simp only [hk, if_true]
    rfl
  · simp only [hk, if_false, ← hp]
    rfl

/-- Phase BUF where the write answers not ok (R183). -/
theorem Answered.bufStep_fail {s : State} {d : Draw} {ds : List Draw} (h : Answered s d ds)
    (hok : d.ok = false) (e : Ins) (w : Word) :
    s.bufStep e w = (s.writeReg (.buf s.k) w).2.raise .transport := by
  simp [State.bufStep, h.write_fail hok]

/-- Phase ISSUE where the write answers ok (R184). -/
theorem Answered.issueStep_ok {s : State} {d : Draw} {ds : List Draw} (h : Answered s d ds)
    (hok : d.ok = true) (e : Ins) :
    s.issueStep e = { (s.writeReg .cmd (encIns s.cfg e)).2 with cnt := 0, ph := .wait } := by
  simp [State.issueStep, h.write_ok hok]

/-- Phase ISSUE where the write answers not ok (R184). -/
theorem Answered.issueStep_fail {s : State} {d : Draw} {ds : List Draw} (h : Answered s d ds)
    (hok : d.ok = false) (e : Ins) :
    s.issueStep e = (s.writeReg .cmd (encIns s.cfg e)).2.raise .transport := by
  simp [State.issueStep, h.write_fail hok]

/-- Every command word of an instruction triggers (R104, R143 (a)). -/
theorem encIns_act {c : Cfg} {i : Instr} (hc : c.wf = true) (hi : i.wf = true) :
    (encIns c (i.ins c)).getLsbD c.actBit = true :=
  congrArg Fields.act (dec_encIns hc hi)

/-- Under the free oracle a word with ACT set starts what the controller decodes of it, or a command that
is none of the block's (R67, R111). -/
theorem State.trigger_oracle {s : State} (hm : s.env.mode = .oracle) {w : Word}
    (hw : w.getLsbD s.cfg.actBit = true) :
    s.trigger w = { s with
      issued := true
      flight := match decodeStaged s.cfg w s.regs.addr s.regs.buf.toList with
        | some j => .running j
        | none => .foreign w } := by
  simp only [State.trigger, hw, State.flightOf, State.startBusy, hm]
  cases decodeStaged s.cfg w s.regs.addr s.regs.buf.toList <;> rfl

/-- Under the free oracle a command word with ACT set that is written with answer ok (R67, R77). -/
theorem Answered.write_command_ok {s : State} {d : Draw} {ds : List Draw} (h : Answered s d ds)
    (hok : d.ok = true) {w : Word} (hw : w.getLsbD s.cfg.actBit = true) :
    s.writeReg .cmd w = (true, { s with
      regs := { s.regs with cmd := w }
      issued := true
      flight := match decodeStaged s.cfg w s.regs.addr s.regs.buf.toList with
        | some j => .running j
        | none => .foreign w
      env := s.env.next ds
      trace := s.trace ++ [.w s.cfg.aCmd w] }) := by
  have htrigger := State.trigger_oracle (s := State.putReg .cmd w { s with env := s.env.next ds }) h.1 hw
  rw [h.write_ok hok, State.landed, htrigger]
  rfl

/-- Settles O10: the answer of the one write decides. -/
theorem addressPhase : Obligations.AddressPhase := by
  intro i s d ds hp ha hd
  rw [exec_addr hp ha]
  refine ⟨fun hok => by rw [hd.addrStep_ok hok], fun hok => ⟨_, rfl, ?_⟩⟩
  rw [hd.addrStep_fail hok]
  obtain ⟨htrace, -⟩ := hd.raise_writeReg_fail hok .addr (i.ins s.cfg).addr
  exact ⟨rfl, rfl, rfl, by simp [hp, taints], htrace⟩

/-- Settles O11: the word written is entry `k` of the staging, and the answer decides. -/
theorem bufferPhase : Obligations.BufferPhase := by
  intro i s d ds hp hk hd
  rw [exec_buf hp hk]
  refine ⟨by simp [stage, hk], fun hok => by rw [hd.bufStep_ok hok hp]; rfl, fun hok => ⟨_, rfl, ?_⟩⟩
  rw [hd.bufStep_fail hok]
  obtain ⟨htrace, -⟩ := hd.raise_writeReg_fail hok (.buf s.k) (stageWord i.payload s.k)
  exact ⟨rfl, rfl, rfl, by simp [hp, taints], htrace⟩

/-- Settles O12: the command word has ACT set, so a write that lands triggers. -/
theorem issuePhase : Obligations.IssuePhase := by
  intro i s d ds hc hi hp hf hd
  rw [exec_issue hp hf]
  refine ⟨fun hok => ?_, fun hok => ⟨_, rfl, ?_⟩⟩
  · have hstep := hd.issueStep_ok hok (i.ins s.cfg)
    rw [hd.write_command_ok hok (encIns_act hc hi)] at hstep
    exact congrArg Host.Outcome.next hstep
  · rw [hd.issueStep_fail hok]
    obtain ⟨htrace, -⟩ := hd.raise_writeReg_fail hok .cmd (encIns s.cfg (i.ins s.cfg))
    exact ⟨rfl, rfl, rfl, by simp [hp, taints], htrace⟩

/-! ### Beginning an element, the end of an instruction -/

/-- The phase an instruction begins in (R181). -/
theorem begin_ins_ph {s : State} {i : Instr} {es : List Elem} (hq : s.q = .ins i :: es) :
    s.begin.ph = if (i.ins s.cfg).hasAddr then .addr else if i.payload ≠ [] then .buf else .issue := by
  by_cases ha : (i.ins s.cfg).hasAddr = true
  · simp [begin_addr hq ha, ha]
  · by_cases hp : i.payload = []
    · simp [begin_issue hq ha hp, ha, hp]
    · simp [begin_buf hq ha hp, ha, hp]

/-- Before another element the end of an instruction is the beginning of that element, in a state that only
the completion and the loss of the head have changed (R185). -/
theorem finishHead_of_next {s : State} {e : Elem} {es : List Elem} (h : s.q.tail = e :: es) :
    ∃ u : State, s.finishHead = u.begin ∧ u.q = e :: es ∧ u.cfg = s.cfg ∧ u.sectors = s.sectors ∧
      u.res = s.res := by
  obtain ⟨hnil, -⟩ | ⟨-, he⟩ := finishHead_cases s
  · simp [h] at hnil
  · exact ⟨_, he, h, by simp, by simp, by simp⟩

/-- At the end of the last element the success effects are on the sector flags (R185, R206, R226). -/
theorem finishHead_sectors_of_last {s : State} (h : s.q.tail = []) :
    s.finishHead.sectors = s.sectorsAfter .ok := by
  obtain ⟨-, he⟩ | ⟨hne, -⟩ := finishHead_cases s
  · rw [he]
    simp [State.sectorsAfter]
  · exact absurd h hne

/-- A transaction leaves what an end of the operation makes of the sector flags. -/
theorem Transacted.sectorsAfter {s s1 : State} (h : Transacted s s1) (f : Res) :
    s1.sectorsAfter f = s.sectorsAfter f := by
  simp only [State.sectorsAfter, h.sectorSize, h.sectors, h.req]

/-- Settles O14: the head is dropped in the state the poll read leaves, and the next one begins there. -/
theorem endOfInstruction : Obligations.EndOfInstruction := by
  intro i s d ds ⟨hp, hn, hd, hok, hclear⟩
  have hr := transacted_readReg (pollReg (i.ins s.cfg).pk) s
  have htrace := hd.readReg_trace_ok hok (pollReg (i.ins s.cfg).pk)
  refine ⟨_, exec_wait hp, ?_⟩
  rw [hd.waitStep_clear hn hok hclear]
  generalize (s.readReg (pollReg (i.ins s.cfg).pk)).2.2 = s1 at hr htrace
  refine ⟨by rw [finishHead_q, hr.q], by rw [State.finishHead_trace, htrace], fun hlast => ?_,
    fun j es hnext => ?_, fun es hnext => ?_⟩
  · rw [← hr.q] at hlast
    obtain ⟨hph, hres⟩ := finishHead_of_last hlast
    exact ⟨hph, hres, (finishHead_sectors_of_last hlast).trans (hr.sectorsAfter .ok)⟩
  · rw [← hr.q] at hnext
    obtain ⟨u, he, hq, hcfg, hsec, hres⟩ := finishHead_of_next hnext
    have hins : j.ins u.cfg = j.ins s.cfg := by rw [hcfg, hr.cfg]
    rw [he, ← hins]
    refine ⟨by simp [hsec, hr.sectors], by simp [hres, hr.res], fun ha => ?_, fun ha hpay => ?_,
      fun ha hpay => ?_⟩
    · rw [begin_addr hq ha]
    · rw [begin_buf hq (by simp [ha]) hpay]
      exact ⟨rfl, rfl⟩
    · rw [begin_issue hq (by simp [ha]) hpay]
  · rw [← hr.q] at hnext
    obtain ⟨u, he, hq, -, hsec, -⟩ := finishHead_of_next hnext
    rw [he, begin_mfr hq]
    exact ⟨rfl, hsec.trans hr.sectors⟩

/-- Settles O15: the read ends the wait, and the completion applies the write-enable. -/
theorem wrenCompletes : Obligations.WrenCompletes := by
  intro s d ds ⟨hp, hn, hd, hok, hclear⟩ hf
  obtain ⟨hdev, hflight, -⟩ := State.readReg_oracle hd.1 .cmd
  have hrun := hflight.trans hf
  have htrace := hd.readReg_trace_ok hok .cmd
  have hq := State.readReg_q .cmd s
  have hstep : s.waitStep .act _ = (s.readReg .cmd).2.2.finishHead := hd.waitStep_clear hn hok hclear
  refine ⟨_, (exec_wait hp).trans (congrArg _ hstep), ?_⟩
  generalize (s.readReg .cmd).2.2 = s1 at hdev hrun htrace hq
  refine ⟨?_, ?_, ?_, ?_⟩
  · rw [finishHead_flight]
    exact complete_flight (by simp [hrun])
  · rw [finishHead_q, hq]
  · rw [finishHead_dev, complete_dev_of_running hrun, hdev]
    rfl
  · rw [State.finishHead_trace, htrace]
    rfl

/-! ### Acceptance and collection -/

/-- A request that no test of R308 refuses and that keeps its precondition has its expansion begun (R180). -/
theorem accept_of_expansion {r : Request} {s : State} (ht : s.tainted = false)
    (hc : s.refusalCause r = none) (hp : precondition s.sectorSize s.flashSize r = true)
    (he : expansion s.cfg r ≠ []) : accept r s = .next ((s.latch r).start (expansion s.cfg r)) := by
  cases r with
  | encode | stage => exact absurd rfl he
  | _ => simp [accept, ht, hc, hp, State.latch]

/-- The step that accepts such a request, whichever way it is submitted (R180, R188). -/
theorem Submitting.step_start {r : Request} {s : State} (h : Submitting r s) (ht : s.tainted = false)
    (hc : s.refusalCause r = none) (hp : precondition s.sectorSize s.flashSize r = true)
    (he : expansion s.cfg r ≠ []) :
    step s = .next ((State.latch r { s with host := s.hostAfter }).start (expansion s.cfg r)) := by
  rw [h.step_eq]
  exact accept_of_expansion (s := { s with host := s.hostAfter }) ht hc hp he

/-! Starting a queue changes nothing but where the engine stands (R180, R181). -/

@[simp] theorem State.start_cfg (es : List Elem) (s : State) : (s.start es).cfg = s.cfg := by
  simp [State.start]

@[simp] theorem State.start_req (es : List Elem) (s : State) : (s.start es).req = s.req := by
  simp [State.start]

@[simp] theorem State.start_sectors (es : List Elem) (s : State) : (s.start es).sectors = s.sectors := by
  simp [State.start]

@[simp] theorem State.start_regs (es : List Elem) (s : State) : (s.start es).regs = s.regs := by
  simp [State.start]

@[simp] theorem State.start_env (es : List Elem) (s : State) : (s.start es).env = s.env := by
  simp [State.start]

@[simp] theorem State.start_host (es : List Elem) (s : State) : (s.start es).host = s.host := by
  simp [State.start]

@[simp] theorem State.start_trace (es : List Elem) (s : State) : (s.start es).trace = s.trace := by
  simp [State.start]

/-- The phase a started queue begins in where its head is an instruction (R181). -/
theorem start_ins_ph (i : Instr) (es : List Elem) (s : State) :
    (s.start (.ins i :: es)).ph =
      if (i.ins s.cfg).hasAddr then .addr else if i.payload ≠ [] then .buf else .issue :=
  begin_ins_ph (s := { s with q := .ins i :: es }) rfl

/-- The write-enable has neither address nor payload: a queue it heads begins in ISSUE (R190). -/
theorem start_wren_ph (es : List Elem) (s : State) : (s.start (.ins .wren :: es)).ph = .issue :=
  start_ins_ph .wren es s

/-- Settles O31: the step loads the expansion and begins its head. -/
theorem acceptanceLoadsTheExpansion : Obligations.AcceptanceLoadsTheExpansion := by
  intro r s hsub ht hc hp he
  refine ⟨_, hsub.step_start ht hc hp he, ?_⟩
  refine ⟨State.start_req .., State.start_q .., State.start_trace .., State.start_regs ..,
    State.start_dev .., State.start_env .., State.start_sectors .., State.start_host .., fun hr => ?_,
    fun a p hr => ?_, fun hr => ?_, fun hr => ?_, fun off hr => ?_, fun hr => ?_, fun a p hr => ?_,
    fun hr => ?_, fun n hr => ?_, fun n hr => ?_, fun i hr => ?_⟩
  · obtain rfl | rfl | rfl | rfl | ⟨off, rfl⟩ := hr <;> exact start_wren_ph _ _
  · subst hr
    simp only [expansion]
    split
    · exact start_wren_ph _ _
    · exact start_ins_ph _ _ _
  · obtain ⟨n, rfl⟩ | ⟨n, rfl⟩ := hr <;> exact ⟨rfl, rfl⟩
  · rw [hr]; exact State.start_q ..
  · rw [hr]; exact State.start_q ..
  · rw [hr]; exact State.start_q ..
  · rw [hr]; exact State.start_q ..
  · obtain rfl | rfl := hr <;> exact State.start_q ..
  · rw [hr]; exact State.start_q ..
  · rw [hr]; exact State.start_q ..
  · subst hr
    exact ⟨State.start_q .., start_ins_ph i [] _⟩

/-- Settles O35: in DONE the step is the collection. -/
theorem collectionReturnsToIdle : Obligations.CollectionReturnsToIdle := by
  intro s hp
  have hfetch : fetch s = .collect := by simp [fetch, hp]
  rw [step, hfetch]
  rfl

end Sys2Proof.Machine
end

section
/-! PROOFS. The step rules compute the driver's functions (R163, R187): each function of the answers is followed
step by step under the free oracle, element by element of the queue. A step's effect on phase, queue and flight
comes from the invariant (`ControlOk`); here stand the trace, the answers left and the result. -/
namespace Sys2Proof.Machine

/-! ### Steps of the machine -/

theorem run_of_step (M : Host.Core) {s u : M.State} (h : M.step s = .next u) (n : Nat) :
    M.run (n + 1) s = M.run n u := by
  rw [Host.Core.run, h]

theorem step_of_run (M : Host.Core) {s t : M.State} {n : Nat} (h : M.run (n + 1) s = .next t) :
    ∃ u, M.step s = .next u ∧ M.run n u = .next t := by
  rw [Host.Core.run] at h
  split at h
  · exact ⟨_, ‹_›, h⟩
  · cases h
  · cases h

/-- Some number of steps leads from `s` to `t`. -/
def Reaches (s t : State) : Prop := ∃ n, Sys2Proof.core.run n s = .next t

theorem Reaches.refl (s : State) : Reaches s s := ⟨0, rfl⟩

theorem Reaches.head {s u t : State} (h : step s = .next u) (hr : Reaches u t) : Reaches s t := by
  obtain ⟨n, hn⟩ := hr
  exact ⟨n + 1, (run_of_step Sys2Proof.core h n).trans hn⟩

theorem Reaches.trans {s u t : State} (h : Reaches s u) (hr : Reaches u t) : Reaches s t := by
  obtain ⟨n, hn⟩ := h
  induction n generalizing s with
  | zero =>
    cases hn
    exact hr
  | succ n ih =>
    obtain ⟨v, hs, hv⟩ := step_of_run Sys2Proof.core hn
    exact (ih hv).head hs

/-! ### Following a function of the answers -/

/-- The configuration is well formed, the engine in control, and the free oracle answers. -/
structure Driven (s : State) : Prop where
  cfg : s.cfg.wf = true
  mode : s.env.mode = .oracle
  control : ControlOk s

/-- One step of the engine that records `tr` and leaves the answers `ds`. -/
structure EngineStep (s t : State) (tr : List Txn) (ds : List Draw) : Prop where
  turn : engineTurn s
  step : step s = .next t
  mode : t.env.mode = .oracle
  trace : t.trace = s.trace ++ tr
  tape : t.env.tape = ds

/-- Steps of the engine lead from `s` to `t` with the trace and the unused answers of the run `x`; where `x`
failed, the operation has ended with its result. -/
structure Follows (s t : State) (x : Run) : Prop where
  reach : Reaches s t
  driven : Driven t
  cfg : t.cfg = s.cfg
  req : t.req = s.req
  trace : t.trace = s.trace ++ x.trace
  tape : t.env.tape = x.rest
  failed : x.res ≠ .ok → t.ph = .done ∧ t.res = x.res

/-- The steps from `s` follow the run `x`, and where `x` is OK they end in a state that meets `K`. -/
def Performs (s : State) (x : Run) (K : State → Prop) : Prop := ∃ t, Follows s t x ∧ (x.res = .ok → K t)

theorem Follows.after {s u t : State} {x y : Run} (h : Follows s u x) (h' : Follows u t y) :
    Follows s t (y.after x.trace) where
  reach := h.reach.trans h'.reach
  driven := h'.driven
  cfg := h'.cfg.trans h.cfg
  req := h'.req.trans h.req
  trace := by rw [h'.trace, h.trace, List.append_assoc]; rfl
  tape := h'.tape
  failed := h'.failed

theorem Performs.nothing {s : State} {K : State → Prop} (h : Driven s) (hK : K s) :
    Performs s ⟨[], .ok, s.env.tape⟩ K :=
  ⟨s, ⟨.refl s, h, rfl, rfl, (List.append_nil _).symm, rfl, fun hne => absurd rfl hne⟩, fun _ => hK⟩

/-- A step of the engine follows a run of its transactions. -/
theorem EngineStep.follows {s t : State} {tr : List Txn} {ds : List Draw} (h : EngineStep s t tr ds)
    (hd : Driven s) {r : Res} (hr : r ≠ .ok → t.ph = .done ∧ t.res = r) :
    Follows s t ⟨tr, r, ds⟩ := by
  have hframe : EngineFrame s t := by
    obtain ⟨hp, -⟩ | ⟨hp, -⟩ | ⟨-, hf⟩ := step_inv h.step
    · exact absurd hp h.turn.1
    · exact absurd hp h.turn.2
    · exact hf
  exact ⟨(Reaches.refl t).head h.step, ⟨hframe.cfg.symm ▸ hd.cfg, h.mode,
    controlOk_step hd.control h.step⟩, hframe.cfg, hframe.req,
    h.trace, h.tape, hr⟩

/-- A step that aborts follows a run that fails. -/
theorem EngineStep.performs_abort {s t : State} {tr : List Txn} {ds : List Draw} (h : EngineStep s t tr ds)
    (hd : Driven s) {r : Res} (hp : t.ph = .done) (ht : t.res = r) (hne : r ≠ .ok) (K : State → Prop) :
    Performs s ⟨tr, r, ds⟩ K :=
  ⟨t, h.follows hd fun _ => ⟨hp, ht⟩, fun hok => absurd hok hne⟩

/-- A step that ends what the run stands for. -/
theorem EngineStep.performs_ok {s t : State} {tr : List Txn} {ds : List Draw} (h : EngineStep s t tr ds)
    (hd : Driven s) {K : State → Prop} (hK : K t) : Performs s ⟨tr, .ok, ds⟩ K :=
  ⟨t, h.follows hd fun hne => absurd rfl hne, fun _ => hK⟩

/-- A step, and then what the state it leads to performs. -/
theorem EngineStep.performs {s t : State} {tr : List Txn} {ds : List Draw} (h : EngineStep s t tr ds)
    (hd : Driven s) {y : Run} {K : State → Prop}
    (hy : Driven t → t.cfg = s.cfg → t.req = s.req → Performs t y K) :
    Performs s (y.after tr) K := by
  have hf : Follows s t ⟨tr, .ok, ds⟩ := h.follows hd fun hne => absurd rfl hne
  obtain ⟨u, hu, hK⟩ := hy hf.driven hf.cfg hf.req
  exact ⟨u, hf.after hu, hK⟩

/-- Going on while the result is OK (R187): if the first run is performed up to a state that meets `K`, and
from such a state the second up to one that meets `L`, then both together are. -/
theorem performs_andThen {s : State} {first : Option Run} {next : List Draw → Option Run} {z : Run}
    {K L : State → Prop} (hz : andThen first next = some z) (h1 : ∀ x, first = some x → Performs s x K)
    (h2 : ∀ t y, Driven t → t.cfg = s.cfg → t.req = s.req → K t → next t.env.tape = some y →
      Performs t y L) :
    Performs s z L := by
  cases first with
  | none => cases hz
  | some x =>
    obtain ⟨t, ht, hK⟩ := h1 x rfl
    rw [andThen] at hz
    split at hz
    · obtain ⟨y, hy, rfl⟩ := Option.map_eq_some_iff.mp hz
      rw [← ht.tape] at hy
      obtain ⟨u, hu, hL⟩ := h2 t y ht.driven ht.cfg ht.req (hK ‹_›) hy
      exact ⟨u, ht.after hu, hL⟩
    · cases hz
      exact ⟨t, ht, fun hok => absurd hok ‹_›⟩

/-! ### The register writes of an instruction -/

/-- The register write that issues an instruction (R184). -/
def commandWrite (c : Cfg) (i : Instr) : RegWrite := (c.aCmd, encIns c (i.ins c))

/-- In phases ADDR, BUF and ISSUE, and where WAIT begins, `ws` are the register writes the instruction has
still to make (R182 to R184). -/
inductive Writing (i : Instr) (ws : List RegWrite) (s : State) : Prop where
  | addr (hp : s.ph = .addr) (ha : (i.ins s.cfg).hasAddr = true)
      (hws : ws = (s.cfg.aAddr, i.address) :: (stage s.cfg i.payload ++ [commandWrite s.cfg i]))
  | buf (hp : s.ph = .buf) (hk : s.k < divUp i.payload.length 4)
      (hws : ws = (stage s.cfg i.payload).drop s.k ++ [commandWrite s.cfg i])
  | issue (hp : s.ph = .issue) (hws : ws = [commandWrite s.cfg i])
  | wait (hp : s.ph = .wait) (hc : s.cnt = 0) (hws : ws = [])

/-- The state after the address write, or at the beginning of an instruction without one (R181, R182). -/
theorem writing_payload {c : Cfg} {i : Instr} {s : State} (hc : s.cfg = c)
    (hp : s.ph = if i.payload ≠ [] then .buf else .issue) (hk : i.payload ≠ [] → s.k = 0) :
    Writing i (stage c i.payload ++ [commandWrite c i]) s := by
  subst hc
  by_cases hpay : i.payload = []
  · refine .issue (by simpa [hpay] using hp) ?_
    rw [hpay]
    rfl
  · have hk0 := hk hpay
    refine .buf (by simpa [hpay] using hp) (hk0 ▸ divUp_length_pos hpay) ?_
    rw [hk0, List.drop_zero]

/-- An instruction just begun has all the writes of its encoding to make (R181, R187). -/
theorem writing_begin {u : State} {i : Instr} {es : List Elem} (hq : u.q = .ins i :: es) :
    Writing i (encode u.cfg i) u.begin := by
  by_cases ha : (i.ins u.cfg).hasAddr = true
  · rw [begin_addr hq ha]
    exact .addr rfl ha (by simp only [encode, insWrites, ha, if_true]; rfl)
  · have henc : encode u.cfg i = stage u.cfg i.payload ++ [commandWrite u.cfg i] := by
      simp only [encode, insWrites, ha]; rfl
    have hp := begin_ins_ph hq
    rw [if_neg ha] at hp
    rw [henc]
    refine writing_payload (State.begin_cfg u) hp fun hpay => ?_
    rw [begin_buf hq ha hpay]

/-- Word `k` of the staging is the next to be written (R183). -/
theorem drop_stage {c : Cfg} {p : List Byte} {k : Nat} (hk : k < divUp p.length 4) :
    (stage c p).drop k = (bufAddr c k, stageWord p k) :: (stage c p).drop (k + 1) := by
  rw [List.drop_eq_getElem_cons (by simpa [stage] using hk)]
  simp [stage]

theorem drop_stage_all (c : Cfg) (p : List Byte) : (stage c p).drop (divUp p.length 4) = [] :=
  List.drop_of_length_le (by simp [stage])

/-- The state after a buffer write (R183). -/
theorem writing_next_word {c : Cfg} {i : Instr} {s : State} {k : Nat} (hc : s.cfg = c)
    (hk : k < divUp i.payload.length 4) (hs : s.k = k + 1)
    (hp : s.ph = if k + 1 = divUp i.payload.length 4 then .issue else .buf) :
    Writing i ((stage c i.payload).drop (k + 1) ++ [commandWrite c i]) s := by
  subst hc
  by_cases hlast : k + 1 = divUp i.payload.length 4
  · refine .issue (by simpa [hlast] using hp) ?_
    rw [hlast, drop_stage_all]
    rfl
  · exact .buf (by simpa [hlast] using hp) (by omega) (by rw [hs])

/-- While it writes, the engine runs the instruction at the head of the queue. -/
theorem Writing.turn {i : Instr} {ws : List RegWrite} {s : State} (h : Writing i ws s) : engineTurn s := by
  cases h <;> simp [engineTurn, *]

theorem step_addr {s : State} {i : Instr} {es : List Elem} (hq : s.q = .ins i :: es) (hp : s.ph = .addr)
    (ha : (i.ins s.cfg).hasAddr = true) : step s = .next (s.addrStep (i.ins s.cfg)) :=
  (stepRunsTheHead s i es hq (.inl hp)).trans (exec_addr hp ha)

theorem step_buf {s : State} {i : Instr} {es : List Elem} (hq : s.q = .ins i :: es) (hp : s.ph = .buf)
    (hk : s.k < divUp i.payload.length 4) :
    step s = .next (s.bufStep (i.ins s.cfg) (stageWord i.payload s.k)) :=
  (stepRunsTheHead s i es hq (.inr (.inl hp))).trans (exec_buf hp hk)

/-- In ISSUE no command is in flight (R352), so the instruction is issued. -/
theorem Driven.step_issue {s : State} (h : Driven s) {i : Instr} {es : List Elem} (hq : s.q = .ins i :: es)
    (hp : s.ph = .issue) : step s = .next (s.issueStep (i.ins s.cfg)) :=
  (stepRunsTheHead s i es hq (.inr (.inr (.inl hp)))).trans
    (exec_issue hp (h.control.flight_clear (.inr (.inr (.inl hp)))))

theorem Driven.head_wf {s : State} (h : Driven s) {i : Instr} {es : List Elem} (hq : s.q = .ins i :: es) :
    i.wf = true :=
  List.all_eq_true.mp h.control.elems (.ins i) (by simp [hq])

section
variable {s : State} {i : Instr} {es : List Elem} {a v : Word} {ws : List RegWrite} {d : Draw}
  {ds : List Draw} (hd : Driven s) (hq : s.q = .ins i :: es) (hw : Writing i ((a, v) :: ws) s)
  (ha : Answered s d ds)
include hd hq hw ha

/-- A write that answers ok leaves the other writes to be made (R182 to R184). -/
theorem Writing.step_ok (hok : d.ok = true) :
    ∃ t, EngineStep s t [.w a v] ds ∧ t.q = s.q ∧ Writing i ws t := by
  have hmode : (s.env.next ds).mode = .oracle := ha.1
  have hturn := hw.turn
  cases hw with
  | addr hp haddr hws =>
    obtain ⟨⟨rfl, rfl⟩, rfl⟩ := by simpa using hws
    have hstep := step_addr hq hp haddr
    rw [ha.addrStep_ok hok] at hstep
    exact ⟨_, ⟨hturn, hstep, hmode, rfl, rfl⟩, rfl,
      writing_payload rfl rfl fun hpay => if_pos hpay⟩
  | buf hp hk hws =>
    rw [drop_stage hk] at hws
    obtain ⟨⟨rfl, rfl⟩, rfl⟩ := by simpa using hws
    have hstep := step_buf hq hp hk
    rw [ha.bufStep_ok hok hp] at hstep
    exact ⟨_, ⟨hturn, hstep, hmode, rfl, rfl⟩, rfl, writing_next_word rfl hk rfl rfl⟩
  | issue hp hws =>
    obtain ⟨⟨rfl, rfl⟩, rfl⟩ := by simpa [commandWrite] using hws
    have hstep := hd.step_issue hq hp
    rw [ha.issueStep_ok hok, ha.write_command_ok hok (encIns_act hd.cfg (hd.head_wf hq))] at hstep
    exact ⟨_, ⟨hturn, hstep, hmode, rfl, rfl⟩, rfl, .wait rfl rfl rfl⟩
  | wait hp hc hws => cases hws

/-- A write that answers not ok ends the operation (R310). -/
theorem Writing.step_fail (hok : d.ok = false) :
    ∃ t, EngineStep s t [.wFail a v] ds ∧ t.ph = .done ∧ t.res = .transport := by
  have hstep : ∃ r, r.address s.cfg = a ∧ step s = .next ((s.writeReg r v).2.raise .transport) := by
    cases hw with
    | addr hp haddr hws =>
      obtain ⟨⟨rfl, rfl⟩, -⟩ := by simpa using hws
      rw [step_addr hq hp haddr, ha.addrStep_fail hok]
      exact ⟨.addr, rfl, rfl⟩
    | buf hp hk hws =>
      rw [drop_stage hk] at hws
      obtain ⟨⟨rfl, rfl⟩, -⟩ := by simpa using hws
      rw [step_buf hq hp hk, ha.bufStep_fail hok]
      exact ⟨.buf s.k, rfl, rfl⟩
    | issue hp hws =>
      obtain ⟨⟨rfl, rfl⟩, -⟩ := by simpa [commandWrite] using hws
      rw [hd.step_issue hq hp, ha.issueStep_fail hok]
      exact ⟨.cmd, rfl, rfl⟩
    | wait hp hc hws => cases hws
  obtain ⟨r, rfl, hstep⟩ := hstep
  obtain ⟨htrace, henv⟩ := ha.raise_writeReg_fail hok r v
  exact ⟨_, ⟨hw.turn, hstep, by rw [henv]; exact ha.1, htrace, by rw [henv]; rfl⟩, rfl, rfl⟩

end

/-- The wait of the head of the queue begins (R184). -/
structure WaitBegins (q : List Elem) (s : State) : Prop where
  q : s.q = q
  ph : s.ph = .wait
  cnt : s.cnt = 0

/-- The steps follow a list of register writes (R187). -/
theorem performs_writes {i : Instr} {es : List Elem} {ws : List RegWrite} {s : State} {x : Run}
    (hd : Driven s) (hq : s.q = .ins i :: es) (hw : Writing i ws s)
    (hx : writesRun ws s.env.tape = some x) : Performs s x (WaitBegins (.ins i :: es)) := by
  induction ws generalizing s x with
  | nil =>
    cases hx
    cases hw with
    | wait hp hc => exact .nothing hd ⟨hq, hp, hc⟩
    | addr _ _ hws => cases hws
    | buf _ _ hws => simp at hws
    | issue _ hws => cases hws
  | cons w ws ih =>
    obtain ⟨a, v⟩ := w
    cases htape : s.env.tape with
    | nil => simp [htape, writesRun] at hx
    | cons d ds =>
      have ha : Answered s d ds := ⟨hd.mode, htape⟩
      rw [htape, writesRun] at hx
      split at hx
      · obtain ⟨y, hy, rfl⟩ := Option.map_eq_some_iff.mp hx
        obtain ⟨t, hs, hqt, hwt⟩ := hw.step_ok hd hq ha ‹_›
        exact hs.performs hd fun ht _ _ => ih ht (hqt.trans hq) hwt (hs.tape ▸ hy)
      · cases hx
        obtain ⟨t, hs, hp, hr⟩ := hw.step_fail hd hq ha (Bool.not_eq_true _ ▸ ‹_›)
        exact hs.performs_abort hd hp hr (by simp) _

/-! ### The wait of an element -/

/-- The operation stands at the elements `es`: the first has just begun, or there is none and the operation
has ended OK (R181, R185). -/
inductive StandsAt : List Elem → State → Prop where
  | ended {s : State} (hp : s.ph = .done) (hr : s.res = .ok) : StandsAt [] s
  | begun {e : Elem} {es : List Elem} (u : State) (hq : u.q = e :: es) : StandsAt (e :: es) u.begin

theorem standsAt_begin {u : State} (hq : u.q ≠ []) : StandsAt u.q u.begin := by
  cases h : u.q with
  | nil => exact absurd h hq
  | cons e es => exact .begun u h

/-- The end of an element leads to the rest of the queue (R185). -/
theorem standsAt_finishHead (s : State) : StandsAt s.q.tail s.finishHead := by
  obtain ⟨hq, he⟩ | ⟨hq, he⟩ := finishHead_cases s <;> rw [he]
  · rw [hq]
    exact .ended rfl rfl
  · exact standsAt_begin (u := { s.complete with q := s.q.tail }) hq

@[simp] theorem State.complete_mode (s : State) : s.complete.env.mode = s.env.mode := by
  unfold State.complete
  split <;> rfl

@[simp] theorem State.complete_tape (s : State) : s.complete.env.tape = s.env.tape := by
  unfold State.complete
  split <;> rfl

/-- The end of an element uses no answer. -/
theorem finishHead_answers (s : State) :
    s.finishHead.env.mode = s.env.mode ∧ s.finishHead.env.tape = s.env.tape := by
  obtain ⟨-, he⟩ | ⟨-, he⟩ := finishHead_cases s <;> simp [he]

/-- The signal and the timeout of an element that ends with a wait (R110, R114). -/
def waitOf (c : Cfg) : Elem → Option (Signal × Nat)
  | .ins i => some ((i.ins c).pk, (i.ins c).timeout)
  | .poll pk n => some (pk, n)
  | .mfr | .illegal _ => none

/-- In WAIT the step is the wait of the head of the queue (R164). -/
theorem step_wait {s : State} {e : Elem} {es : List Elem} {pk : Signal} {n : Nat} (hp : s.ph = .wait)
    (hq : s.q = e :: es) (hw : waitOf s.cfg e = some (pk, n)) : step s = .next (s.waitStep pk n) := by
  cases e with
  | ins i =>
    cases hw
    exact (stepRunsTheHead s i es hq (.inr (.inr (.inr hp)))).trans (exec_wait hp)
  | poll =>
    cases hw
    exact step_poll hp hq
  | mfr => cases hw
  | illegal => cases hw

/-- A read uses one answer, whichever it is. -/
theorem Answered.readReg_env {s : State} {d : Draw} {ds : List Draw} (h : Answered s d ds) (r : Reg) :
    (s.readReg r).2.2.env = s.env.next ds := by
  cases hok : d.ok with
  | true => simp [h.read_ok hok]
  | false => simp [h.read_fail hok]

section
variable {s : State} {pk : Signal} {n : Nat} {d : Draw} {ds : List Draw} (hp : s.ph = .wait)
  (hstep : step s = .next (s.waitStep pk n)) (hn : s.cnt ≠ n) (ha : Answered s d ds)
include hp hstep hn ha

/-- The poll read that answers not ok, as a step (R164). -/
theorem engineStep_wait_fail (hok : d.ok = false) :
    EngineStep s ((s.readReg (pollReg pk)).2.2.raise .transport) [.rFail ((pollReg pk).address s.cfg)]
      ds where
  turn := by simp [engineTurn, hp]
  step := by rw [hstep, ha.waitStep_fail hn hok]
  mode := (congrArg Env.mode (ha.readReg_env _)).trans ha.1
  trace := ha.readReg_trace_fail hok _
  tape := congrArg Env.tape (ha.readReg_env _)

/-- The poll read that shows the bit set, as a step (R164). -/
theorem engineStep_wait_pending (hok : d.ok = true) (hpend : pending s.cfg pk d.value = true) :
    EngineStep s ((s.readReg (pollReg pk)).2.2.pollAgain pk) [.r ((pollReg pk).address s.cfg) d.value]
      ds where
  turn := by simp [engineTurn, hp]
  step := by rw [hstep, ha.waitStep_pending hn hok hpend]
  mode := (congrArg Env.mode (ha.readReg_env _)).trans ha.1
  trace := ha.readReg_trace_ok hok _
  tape := congrArg Env.tape (ha.readReg_env _)

/-- The poll read that shows the bit clear, as a step (R164, R185). -/
theorem engineStep_wait_clear (hok : d.ok = true) (hclear : pending s.cfg pk d.value = false) :
    EngineStep s (s.readReg (pollReg pk)).2.2.finishHead [.r ((pollReg pk).address s.cfg) d.value]
      ds where
  turn := by simp [engineTurn, hp]
  step := by rw [hstep, ha.waitStep_clear hn hok hclear]
  mode := by
    rw [(finishHead_answers _).1, ha.readReg_env]
    exact ha.1
  trace := (State.finishHead_trace _).trans (ha.readReg_trace_ok hok _)
  tape := by
    rw [(finishHead_answers _).2, ha.readReg_env]
    rfl

end

/-- The steps follow the wait from any count on (R163, R164). -/
theorem performs_wait {e : Elem} {es : List Elem} {pk : Signal} {n : Nat} (m : Nat) {s : State} {x : Run}
    (hd : Driven s) (hp : s.ph = .wait) (hq : s.q = e :: es) (hw : waitOf s.cfg e = some (pk, n))
    (hm : s.cnt + m = n) (hx : waitRun s.cfg pk m s.env.tape = some x) : Performs s x (StandsAt es) := by
  induction m generalizing s x with
  | zero =>
    cases hx
    have hs : EngineStep s (s.raise .busy) [] s.env.tape :=
      ⟨by simp [engineTurn, hp], (step_wait hp hq hw).trans (congrArg _ (waitStep_of_timeout hm pk)),
        hd.mode, (List.append_nil _).symm, rfl⟩
    exact hs.performs_abort hd rfl rfl (by simp) _
  | succ m ih =>
    cases htape : s.env.tape with
    | nil => simp [htape, waitRun] at hx
    | cons d ds =>
      have ha : Answered s d ds := ⟨hd.mode, htape⟩
      have hn : s.cnt ≠ n := by omega
      have hstep := step_wait hp hq hw
      have hr := transacted_readReg (pollReg pk) s
      rw [htape, waitRun] at hx
      split at hx
      case isFalse hok =>
        cases hx
        exact (engineStep_wait_fail hp hstep hn ha (by simpa using hok)).performs_abort hd rfl rfl
          (by simp) _
      case isTrue hok =>
        split at hx
        case isTrue hpend =>
          obtain ⟨y, hy, rfl⟩ := Option.map_eq_some_iff.mp hx
          have hs := engineStep_wait_pending hp hstep hn ha hok hpend
          refine hs.performs hd fun ht hc _ => ?_
          have hcnt : (s.readReg (pollReg pk)).2.2.cnt + 1 + m = n := by
            rw [hr.cnt]
            omega
          exact ih ht (hr.ph.trans hp) (hr.q.trans hq) (hc ▸ hw) hcnt (by rwa [hc, hs.tape])
        case isFalse hclear =>
          cases hx
          have hs := engineStep_wait_clear hp hstep hn ha hok (by simpa using hclear)
          have hstands := standsAt_finishHead (s.readReg (pollReg pk)).2.2
          rw [hr.q, hq] at hstands
          exact hs.performs_ok hd hstands

/-! ### Elements, the manufacturer step, operations -/

/-- The steps follow one element of the queue (R187). -/
theorem performs_elem {e : Elem} {es : List Elem} {s : State} {x : Run} (hd : Driven s)
    (hs : StandsAt (e :: es) s) (hx : runElem s.cfg e s.env.tape = some x) :
    Performs s x (StandsAt es) := by
  cases hs with
  | begun u hq =>
    have hq' := (State.begin_q u).trans hq
    cases e with
    | ins i =>
      have hw : Writing i (encode u.begin.cfg i) u.begin := (State.begin_cfg u).symm ▸ writing_begin hq
      refine performs_andThen hx (fun y hy => performs_writes hd hq' hw hy) (fun t y ht hc _ hK hy => ?_)
      rw [← hc] at hy
      exact performs_wait _ ht hK.ph hK.q rfl (by rw [hK.cnt, Nat.zero_add]) hy
    | poll pk n =>
      rw [begin_poll hq] at hd hx ⊢
      exact performs_wait n hd rfl hq rfl (Nat.zero_add n) hx
    | mfr => cases hx
    | illegal w => cases hx

/-- The steps follow a list of elements to the end of the operation (R187). -/
theorem performs_elems {es : List Elem} {s : State} {x : Run} (hd : Driven s) (hs : StandsAt es s)
    (hx : runElems s.cfg es s.env.tape = some x) : Performs s x (StandsAt []) := by
  induction es generalizing s x with
  | nil =>
    cases hx
    exact .nothing hd hs
  | cons e es ih =>
    exact performs_andThen hx (fun y hy => performs_elem hd hs hy)
      (fun t y ht hc _ hK hy => ih ht hK (hc ▸ hy))

/-- The register the manufacturer step reads is the one at `A_MFR` (R8 (c), R243). -/
theorem mfrReg_address {c : Cfg} (h : c.wf = true) : (mfrReg c).address c = c.aMfr := by
  simp only [Cfg.wf, Cfg.wfMfr, Bool.and_eq_true, decide_eq_true_eq] at h
  obtain ⟨⟨⟨⟨-, hmem, -⟩, -⟩, -⟩, -⟩ := h
  unfold mfrReg
  split_ifs with h1 h2 h3 h4 h5 h6
  · exact h1.symm
  · exact h2.symm
  · exact h3.symm
  · exact h4.symm
  · exact h5.symm
  · exact h6.symm
  · have hbuf : c.aMfr = c.aBuf0 := by simpa [Cfg.singles, h1, h2, h3, h4, h5, h6] using hmem
    simp [Reg.address, bufAddr, hbuf]

/-- The manufacturer step where its read answers ok: the continuation of the bucket begins (R243). -/
theorem Answered.mfrRead_ok {s : State} {d : Draw} {ds : List Draw} (h : Answered s d ds)
    (hok : d.ok = true) : s.mfrRead = (s.readReg (mfrReg s.cfg)).2.2.start
      (continuation s.req (bucketOf s.cfg (byteAt d.value s.cfg.mfrLsb))) := by
  simp [State.mfrRead, h.read_ok hok]

/-- The manufacturer step where its read answers not ok (R243). -/
theorem Answered.mfrRead_fail {s : State} {d : Draw} {ds : List Draw} (h : Answered s d ds)
    (hok : d.ok = false) : s.mfrRead = (s.readReg (mfrReg s.cfg)).2.2.raise .transport := by
  simp [State.mfrRead, h.read_fail hok]

/-- In MFR the step is the manufacturer step of a request that has one (R22, R243). -/
theorem step_mfr {s : State} {es : List Elem} (hp : s.ph = .mfr) (hq : s.q = .mfr :: es)
    (hc : continuation s.req .generic ≠ []) : step s = .next s.mfrRead := by
  have hfetch : fetch s = .mfr := by simp [fetch, hp, hq]
  rw [step, hfetch]
  show mfrStep s = _
  unfold mfrStep
  split
  · exact absurd ‹_› hc
  · rfl

theorem standsAt_start {es : List Elem} (h : es ≠ []) (s : State) : StandsAt es (s.start es) :=
  standsAt_begin (u := { s with q := es }) h

theorem StandsAt.mfr {es : List Elem} {s : State} (h : StandsAt (.mfr :: es) s) :
    s.ph = .mfr ∧ s.q = .mfr :: es := by
  cases h with
  | begun u hq =>
    rw [begin_mfr hq]
    exact ⟨rfl, hq⟩

/-- The steps follow the manufacturer step and the continuation it selects (R243, R245). -/
theorem performs_mfr {es : List Elem} {s : State} {x : Run} (hd : Driven s) (hs : StandsAt (.mfr :: es) s)
    (hx : runMfr s.cfg s.req s.env.tape = some x) : Performs s x (StandsAt []) := by
  obtain ⟨hp, hq⟩ := hs.mfr
  have hcont : continuation s.req .generic ≠ [] := by
    simpa [elemOk] using List.all_eq_true.mp hd.control.elems .mfr (by simp [hq])
  have hturn : engineTurn s := by simp [engineTurn, hp]
  have hstep := step_mfr hp hq hcont
  cases htape : s.env.tape with
  | nil => simp [htape, runMfr] at hx
  | cons d ds =>
    have ha : Answered s d ds := ⟨hd.mode, htape⟩
    have henv := ha.readReg_env (mfrReg s.cfg)
    rw [htape, runMfr, ← mfrReg_address hd.cfg] at hx
    split at hx
    case isFalse hok =>
      cases hx
      have hok : d.ok = false := by simpa using hok
      rw [ha.mfrRead_fail hok] at hstep
      have hs := EngineStep.mk hturn hstep ((congrArg Env.mode henv).trans ha.1)
        (ha.readReg_trace_fail hok _) (congrArg Env.tape henv)
      exact hs.performs_abort hd rfl rfl (by simp) _
    case isTrue hok =>
      obtain ⟨y, hy, rfl⟩ := Option.map_eq_some_iff.mp hx
      rw [ha.mfrRead_ok hok] at hstep
      rw [← State.start_env] at henv
      have hs := EngineStep.mk hturn hstep ((congrArg Env.mode henv).trans ha.1)
        ((State.start_trace ..).trans (ha.readReg_trace_ok hok _)) (congrArg Env.tape henv)
      refine hs.performs hd fun ht hc _ => performs_elems ht (standsAt_start ?_ _) ?_
      · exact (continuation_ok s.req _).2 hcont
      · rw [hc, hs.tape]
        exact hy

/-- The steps follow an operation: its elements in order, the manufacturer step where it stands (R187). -/
theorem performs_op {es : List Elem} {s : State} {x : Run} (hd : Driven s) (hs : StandsAt es s)
    (hx : runOp s.cfg s.req es s.env.tape = some x) : Performs s x (StandsAt []) := by
  induction es generalizing s x with
  | nil =>
    cases hx
    exact .nothing hd hs
  | cons e es ih =>
    have next (hx : andThen (runElem s.cfg e s.env.tape) (runOp s.cfg s.req es) = some x) :
        Performs s x (StandsAt []) :=
      performs_andThen hx (fun y hy => performs_elem hd hs hy)
        (fun t y ht hc hr hK hy => ih ht hK (by rwa [hc, hr]))
    cases e with
    | ins i => exact next hx
    | poll pk n => exact next hx
    | mfr => exact performs_mfr hd hs hx
    | illegal w => cases hx

/-- An operation followed to its end has ended in DONE with the run's result. -/
theorem Performs.reaches_done {s : State} {x : Run} (h : Performs s x (StandsAt [])) :
    ∃ t, Reaches s t ∧ t.ph = .done ∧ t.res = x.res ∧ t.trace = s.trace ++ x.trace ∧
      t.env.tape = x.rest := by
  obtain ⟨t, ht, hK⟩ := h
  refine ⟨t, ht.reach, ?_⟩
  by_cases hok : x.res = .ok
  · cases hK hok with
    | ended hp hr => exact ⟨hp, hr.trans hok.symm, ht.trace, ht.tape⟩
  · obtain ⟨hp, hr⟩ := ht.failed hok
    exact ⟨hp, hr, ht.trace, ht.tape⟩

/-- Settles O39: the one element of the queue is followed from its beginning. -/
theorem stepsComputeRunIns : Obligations.StepsComputeRunIns := by
  intro s i x hc hi _ hf hm hx
  have hd : Driven (s.start [.ins i]) :=
    ⟨by rwa [State.start_cfg], by rwa [State.start_env],
      controlOk_begin (s := { s with q := [.ins i] }) (by simp) (by simp [elemOk, hi]) hf⟩
  have hrun : Performs (s.start [.ins i]) x (StandsAt []) :=
    performs_elem hd (standsAt_start (by simp) s) (by rwa [State.start_cfg, State.start_env])
  obtain ⟨t, ⟨n, hn⟩, hp, hr, htrace, htape⟩ := hrun.reaches_done
  exact ⟨n, t, hn, hp, hr, by rw [htrace, State.start_trace], htape⟩

/-- Settles O40: acceptance begins the expansion, and its elements are followed from there. -/
theorem stepsComputeRunOp : Obligations.StepsComputeRunOp := by
  intro s r x hinv hsub ht hc hp he hm hx
  obtain ⟨hstore, hcontrol⟩ := inv_iff.mp hinv
  have hstep := hsub.step_start ht hc hp he
  generalize hu : State.latch r { s with host := s.hostAfter } = u at hstep
  have hd : Driven (u.start (expansion s.cfg r)) := by
    refine ⟨?_, ?_, controlOk_step hcontrol hstep⟩
    · rw [State.start_cfg, ← hu]
      exact hstore.cfg
    · rw [State.start_env, ← hu]
      exact hm
  have hrun : Performs (u.start (expansion s.cfg r)) x (StandsAt []) := by
    refine performs_op hd (standsAt_start he u) ?_
    rw [State.start_cfg, State.start_req, State.start_env, ← hu]
    exact hx
  obtain ⟨t, ⟨n, hn⟩, hp, hr, htrace, htape⟩ := hrun.reaches_done
  refine ⟨n, t, (run_of_step Sys2Proof.core hstep n).trans hn, hp, hr, ?_, htape⟩
  rw [htrace, State.start_trace, ← hu]
  rfl

end Sys2Proof.Machine
end

section
/-! PROOFS. The erase instructions at their completing read (R200, R201), and the sector flags at the end of an
operation (R206, R207, R226, R254). -/
namespace Sys2Proof.Machine

/-! ### The completing read -/

/-- The read that shows the bit clear leaves the end of the instruction (R164, R185). -/
theorem Completing.exec_finishHead {i : Instr} {s : State} {d : Draw} {ds : List Draw}
    (h : Completing i s d ds) :
    exec i s = .next (s.readReg (pollReg (i.ins s.cfg).pk)).2.2.finishHead := by
  obtain ⟨hp, hn, hd, hok, hclear⟩ := h
  rw [exec_wait hp, hd.waitStep_clear hn hok hclear]

/-- The completing read applies the command in flight to the device, and nothing is in flight after it
(R72, log 9). The read itself is the draw before the command's. -/
theorem Completing.exec_running {i j : Instr} {s : State} {d : Draw} {ds : List Draw}
    (h : Completing i s d ds) (hf : s.flight = .running j) :
    ∃ t, exec i s = .next t ∧ t.flight = .clear ∧ t.q = s.q.tail ∧
      t.dev = s.dev.apply s.cfg .oracle (s.env.draws + 1) j := by
  have hexec := h.exec_finishHead
  obtain ⟨-, -, hd, -, -⟩ := h
  obtain ⟨hdev, hflight, hmode⟩ := State.readReg_oracle hd.1 (pollReg (i.ins s.cfg).pk)
  have hrun := hflight.trans hf
  refine ⟨_, hexec, ?_, ?_, ?_⟩
  · rw [finishHead_flight]
    exact complete_flight (by simp [hrun])
  · rw [finishHead_q, State.readReg_q]
  · rw [finishHead_dev, complete_dev_of_running hrun, hdev, hmode, State.readReg_cfg, hd.readReg_env]
    rfl

/-- A sector erase at the start of a sector of the array, where the device accepts it (R80, R200). -/
theorem Device.apply_se_of_accepts {c : Cfg} {mode : EnvMode} {d : Device} {a : Word}
    (h : d.flashAccepts mode = true) (ha : a.toNat % c.sectorSize = 0) (hlt : a.toNat < c.flashSize)
    (n : Nat) : d.apply c mode n (.se a) =
      { d with flash := d.flash.eraseRange c a.toNat c.sectorSize, wel := false } := by
  have hdef : eraseDefined c mode a = true := by simp [eraseDefined, ha, hlt]
  have hstart : a.toNat / c.sectorSize * c.sectorSize = a.toNat :=
    Nat.div_mul_cancel (Nat.dvd_of_mod_eq_zero ha)
  rw [Device.apply, Device.eraseSector_of_accepts h hdef, hstart]

/-- Settles O16: the completing read applies the erase of the one sector. -/
theorem sectorEraseCompletes : Obligations.SectorEraseCompletes := by
  intro a s d ds hc hf hr ha hlt
  obtain ⟨t, hexec, hflight, hq, hdev⟩ := hc.exec_running hf
  rw [Device.apply_se_of_accepts hr.flashAccepts ha hlt] at hdev
  refine ⟨t, hexec, hflight, hq, ?_⟩
  rw [hdev]
  exact ⟨rfl, rfl, rfl, fun x => Memory.read_eraseRange s.cfg a.toNat s.cfg.sectorSize x s.dev.flash⟩

/-- Settles O17: the completing read applies the erase of the whole array. -/
theorem chipEraseCompletes : Obligations.ChipEraseCompletes := by
  intro s d ds hc hf hr
  obtain ⟨t, hexec, hflight, hq, hdev⟩ := hc.exec_running hf
  rw [Device.apply, Device.eraseChip_of_accepts hr.flashAccepts] at hdev
  refine ⟨t, hexec, hflight, hq, ?_⟩
  rw [hdev]
  exact ⟨rfl, rfl, rfl, Memory.read_eraseAll s.cfg⟩

/-! ### Sector flags at the end of an operation -/

/-- In DONE the sector flags are what the operation's result makes of those of `s` (R185, R310). -/
def EndMarked (s t : State) : Prop := t.ph = .done → t.sectors = s.sectorsAfter t.res

/-- A step after which the operation goes on has nothing to mark. -/
theorem endMarked_of_ph {s t : State} (h : t.ph ≠ .done) : EndMarked s t := fun hd => absurd hd h

theorem Transacted.endMarked_raise {s s1 : State} (h : Transacted s s1) (f : Res) :
    EndMarked s (s1.raise f) :=
  fun _ => h.sectorsAfter f

theorem begin_ph_ne_done {s : State} (hq : s.q ≠ []) : s.begin.ph ≠ .done := by
  obtain hp | hp | hp | hp | ⟨hp, -⟩ := begin_ph_cases hq <;> simp [hp]

/-- After the last instruction the success effects are there; after any other the next one begins, and no
operation ends (R185). -/
theorem Transacted.endMarked_finishHead {s s1 : State} (h : Transacted s s1) :
    EndMarked s s1.finishHead := by
  obtain ⟨hq, -⟩ | ⟨hq, he⟩ := finishHead_cases s1
  · obtain ⟨-, hres⟩ := finishHead_of_last hq
    intro _
    rw [finishHead_sectors_of_last hq, hres, h.sectorsAfter]
  · rw [he]
    exact endMarked_of_ph (begin_ph_ne_done hq)

theorem endMarked_addrStep (e : Ins) (s : State) : EndMarked s (s.addrStep e) := by
  obtain ⟨s1, h, he⟩ | ⟨s1, h, ⟨-, he⟩ | ⟨-, he⟩⟩ := addrStep_cases e s <;> rw [he]
  · obtain rfl := snd_of_writeReg h
    exact (transacted_writeReg ..).endMarked_raise _
  · exact endMarked_of_ph (by simp)
  · exact endMarked_of_ph (by simp)

theorem endMarked_bufStep {s : State} (hp : s.ph = .buf) (e : Ins) (w : Word) :
    EndMarked s (s.bufStep e w) := by
  obtain ⟨s1, h, he⟩ | ⟨s1, h, ⟨-, he⟩ | ⟨-, he⟩⟩ := bufStep_cases e w s <;> rw [he] <;>
    obtain rfl := snd_of_writeReg h
  · exact (transacted_writeReg ..).endMarked_raise _
  · exact endMarked_of_ph (by simp)
  · exact endMarked_of_ph (by simp [hp])

theorem endMarked_issueStep (e : Ins) (s : State) : EndMarked s (s.issueStep e) := by
  obtain ⟨s1, h, he⟩ | ⟨s1, h, he⟩ := issueStep_cases e s <;> rw [he]
  · obtain rfl := snd_of_writeReg h
    exact (transacted_writeReg ..).endMarked_raise _
  · exact endMarked_of_ph (by simp)

theorem endMarked_waitStep {s : State} (hp : s.ph = .wait) (pk : Signal) (n : Nat) :
    EndMarked s (s.waitStep pk n) := by
  have hr := transacted_readReg (pollReg pk) s
  obtain ⟨-, he⟩ | ⟨-, v, s1, h, he⟩ | ⟨-, v, s1, h, ⟨-, he⟩ | ⟨-, he⟩⟩ := waitStep_cases pk n s <;>
    rw [he]
  · exact (transacted_refl s).endMarked_raise _
  · obtain rfl := snd_of_readReg h
    exact hr.endMarked_raise _
  · obtain rfl := snd_of_readReg h
    exact endMarked_of_ph (by simp [hp])
  · obtain rfl := snd_of_readReg h
    exact hr.endMarked_finishHead

theorem endMarked_exec {i : Instr} {s t : State} (h : exec i s = .next t) : EndMarked s t := by
  obtain ⟨-, -, rfl⟩ | ⟨hp, -, rfl⟩ | ⟨-, -, rfl⟩ | ⟨hp, rfl⟩ := exec_cases h
  · exact endMarked_addrStep _ s
  · exact endMarked_bufStep hp _ _
  · exact endMarked_issueStep _ s
  · exact endMarked_waitStep hp _ _

/-- The flag of a sector after marking a range: the mark inside it, the old flag outside. -/
theorem erasedFlag_of_markFrom {s t : State} {r : Option (Nat × Nat)} {v : Tri}
    (h : t.sectors = markFrom r v 0 s.sectors) (n : Nat) :
    erasedFlag t n =
      if targeted r n = true ∧ n < s.sectors.length then some v else erasedFlag s n := by
  rw [erasedFlag, h, erased_markFrom, Nat.zero_add]
  rfl

/-- A range of one sector targets that sector only. -/
theorem targeted_single {m n : Nat} : targeted (some (m, m)) n = true ↔ n = m := by
  rw [targeted, decide_eq_true_eq]
  omega

/-- The sectors a request targets hold the request's mark, and every other flag is as before, request by
request (R202, R203, R221, R254). -/
def FlagsMarked (mark : Request → Tri) (s t : State) : Prop :=
  ∀ n, n < s.sectors.length →
    (∀ off, s.req = .eraseSector off → erasedFlag t n =
      if n = off.toNat / s.sectorSize then some (mark (.eraseSector off)) else erasedFlag s n) ∧
    (s.req = .eraseChip → erasedFlag t n = some (mark .eraseChip)) ∧
    (∀ a p, s.req = .pageProgram a p → erasedFlag t n =
      if a.toNat / s.sectorSize ≤ n ∧ n ≤ (a.toNat + max p.length 1 - 1) / s.sectorSize then
        some (mark (.pageProgram a p))
      else erasedFlag s n) ∧
    (s.req = .writeEnable ∨ s.req = .quadEnable ∨ s.req = .protectDisable ∨
      (∃ m, s.req = .waitAct m) ∨ (∃ m, s.req = .waitIdle m) ∨ (∃ j, s.req = .single j) →
      erasedFlag t n = erasedFlag s n)

theorem flagsMarked_of_markFrom {mark : Request → Tri} {s t : State}
    (h : t.sectors =
      markFrom (targets s.sectorSize s.sectors.length s.req) (mark s.req) 0 s.sectors) :
    FlagsMarked mark s t := by
  intro n hn
  have hflag := erasedFlag_of_markFrom h n
  simp only [hn, and_true] at hflag
  refine ⟨fun off hr => ?_, fun hr => ?_, fun a p hr => ?_, fun hr => ?_⟩
  · rw [hflag, hr]
    simp only [targets, targeted_single]
  · rw [hflag, hr]
    simp [targets, targeted, hn.le]
  · rw [hflag, hr]
    simp only [targets, targeted, decide_eq_true_eq]
  · have hnone : targets s.sectorSize s.sectors.length s.req = none := by
      obtain hr | hr | hr | ⟨m, hr⟩ | ⟨m, hr⟩ | ⟨j, hr⟩ := hr <;> rw [hr] <;> rfl
    rw [hflag, hnone]
    rfl

/-- The read that ends the last wait of an operation ends it OK, with its success marks (R206, R226). -/
theorem Hitting.marks {pk : Signal} {n : Nat} {s : State} {d : Draw} {ds : List Draw}
    (h : Hitting pk n s d ds) (hq : s.q.tail = []) :
    (s.waitStep pk n).res = .ok ∧ FlagsMarked successMark s (s.waitStep pk n) := by
  obtain ⟨hp, hn, hd, hok, hclear⟩ := h
  have hend : (s.waitStep pk n).ph = .done ∧ (s.waitStep pk n).res = .ok := by
    rw [hd.waitStep_clear hn hok hclear]
    exact finishHead_of_last (by rwa [State.readReg_q])
  obtain ⟨hph, hres⟩ := hend
  have hsec := endMarked_waitStep hp pk n hph
  rw [hres] at hsec
  exact ⟨hres, flagsMarked_of_markFrom hsec⟩

/-- Settles O27: an instruction's last wait and the bare one end the operation in the same way. -/
theorem sectorFlagsOnSuccess : Obligations.SectorFlagsOnSuccess :=
  ⟨fun _ _ _ _ hc hq => ⟨_, exec_wait hc.1, Hitting.marks hc hq⟩,
    fun _ _ _ _ _ hh hq => ⟨_, step_poll hh.1 hq, hh.marks (by rw [hq]; rfl)⟩⟩

/-- An operation that ends with a transport or busy failure leaves every targeted flag UNKNOWN (R207, R226). -/
theorem EndMarked.flagsMarked_unknown {s t : State} (h : EndMarked s t) (hp : t.ph = .done)
    (hr : t.res = .transport ∨ t.res = .busy) : FlagsMarked (fun _ => .unknown) s t := by
  refine flagsMarked_of_markFrom ((h hp).trans ?_)
  obtain hr | hr := hr <;> rw [hr] <;> rfl

/-- Settles O28: a step that ends the operation marks by its result, whichever phase fails. -/
theorem sectorFlagsOnFailure : Obligations.SectorFlagsOnFailure := by
  refine ⟨fun i s t h => (endMarked_exec h).flagsMarked_unknown, fun pk n es s t hp hq h => ?_⟩
  rw [step_poll hp hq] at h
  cases h
  exact (endMarked_waitStep hp pk n).flagsMarked_unknown

end Sys2Proof.Machine
end

section
/-! PROOFS. `eraseSector` from acceptance to DONE (R202, R204, R206): the write-enable and the sector erase, each
followed step by step where every answer is ok and every wait is clear on its first poll. -/
namespace Sys2Proof.Machine

/-! ### Acceptance -/

theorem anyProtected_iff {r : Option (Nat × Nat)} {i : Nat} {l : List Sector} :
    anyProtected r i l = true ↔
      ∃ n, targeted r (i + n) = true ∧ (l[n]?).map Sector.prot = some .yes := by
  induction l generalizing i with
  | nil => simp [anyProtected]
  | cons x xs ih =>
    rw [anyProtected, Bool.or_eq_true, Bool.and_eq_true, decide_eq_true_eq, ih]
    constructor
    · rintro (⟨hr, hx⟩ | ⟨n, hr, hn⟩)
      · exact ⟨0, hr, by simp [hx]⟩
      · exact ⟨n + 1, by rwa [← Nat.add_assoc, Nat.add_right_comm], hn⟩
    · rintro ⟨_ | n, hr, hn⟩
      · exact .inl ⟨hr, by simpa using hn⟩
      · exact .inr ⟨n, by rwa [Nat.add_right_comm, Nat.add_assoc], hn⟩

/-- On a probed bank a sector erase is refused for the flag `protected` of its own sector only (R308). -/
theorem refusalCause_eraseSector {s : State} {off : Word} (hprobed : s.probed = true)
    (hprot : protFlag s (off.toNat / s.sectorSize) ≠ some .yes) :
    s.refusalCause (.eraseSector off) = none := by
  have hany : ¬ anyProtected (targets s.sectorSize s.sectors.length (.eraseSector off)) 0 s.sectors := by
    rw [anyProtected_iff]
    rintro ⟨n, hr, hn⟩
    obtain rfl : n = _ := by simpa [targets, targeted_single] using hr
    exact hprot hn
  simp [State.refusalCause, hprobed, hany, requestLength]

/-- A sector erase accepted: its write-enable is to be issued (R114, R180, R202). -/
def State.eraseAccepted (off : Word) (s : State) : State :=
  { s with
    req := .eraseSector off
    trace := []
    host := s.hostAfter
    q := [.ins .wren, .ins (.se off)]
    ph := .issue }

theorem Submitting.step_eraseSector {s : State} {off : Word} (h : Submitting (.eraseSector off) s)
    (ht : s.tainted = false) (hprobed : s.probed = true) (halign : off.toNat % s.sectorSize = 0)
    (hlt : off.toNat < s.flashSize) (hprot : protFlag s (off.toNat / s.sectorSize) ≠ some .yes) :
    step s = .next (s.eraseAccepted off) :=
  h.step_start ht (refusalCause_eraseSector hprobed hprot) (by simp [precondition, halign, hlt])
    (by simp [expansion])

/-! ### One instruction, every answer ok -/

theorem run_add (M : Host.Core) {s u : M.State} {m : Nat} (h : M.run m s = .next u) (n : Nat) :
    M.run (m + n) s = M.run n u := by
  induction m generalizing s with
  | zero =>
    cases h
    rw [Nat.zero_add]
  | succ m ih =>
    obtain ⟨v, hs, hv⟩ := step_of_run M h
    rw [Nat.succ_add, run_of_step M hs, ih hv]

/-- In `n` steps that follow the run `x`, instruction `i` has been executed and the operation stands at `es`. -/
structure Executed (n : Nat) (i : Instr) (es : List Elem) (x : Run) (s t : State) : Prop where
  run : Sys2Proof.core.run n s = .next t
  follows : Follows s t x
  stands : StandsAt es t
  dev : ∃ k, t.dev = s.dev.apply s.cfg .oracle k i
  tainted : t.tainted = s.tainted
  sectorSize : t.sectorSize = s.sectorSize
  sectors : t.sectors = if es = [] then s.sectorsAfter .ok else s.sectors

/-- A step of the engine that changes none of what `Executed` speaks of, and then the execution. -/
theorem EngineStep.executed {s u t : State} {tr : List Txn} {ds : List Draw} {n : Nat} {i : Instr}
    {es : List Elem} {x : Run} (h : EngineStep s u tr ds) (hd : Driven s)
    (hx : Executed n i es x u t) (hdev : u.dev = s.dev) (htainted : u.tainted = s.tainted)
    (hsize : u.sectorSize = s.sectorSize) (hsectors : u.sectors = s.sectors) :
    Executed (n + 1) i es (x.after tr) s t := by
  have hf : Follows s u ⟨tr, .ok, ds⟩ := h.follows hd fun hne => absurd rfl hne
  obtain ⟨k, hk⟩ := hx.dev
  have hmarks : u.sectorsAfter .ok = s.sectorsAfter .ok := by
    simp only [State.sectorsAfter, hsize, hsectors, hf.req]
  exact ⟨(run_of_step Sys2Proof.core h.step n).trans hx.run, hf.after hx.follows, hx.stands,
    ⟨k, by rw [hk, hdev, hf.cfg]⟩, hx.tainted.trans htainted, hx.sectorSize.trans hsize,
    by rw [hx.sectors, hmarks, hsectors]⟩

/-- The end of an element leaves the sector flags to the elements behind it; that of the last marks them. -/
theorem Transacted.finishHead_sectors {s s1 : State} (h : Transacted s s1) {e : Elem} {es : List Elem}
    (hq : s1.q = e :: es) :
    s1.finishHead.sectors = if es = [] then s.sectorsAfter .ok else s.sectors := by
  cases es with
  | nil => exact (finishHead_sectors_of_last (by rw [hq]; rfl)).trans (h.sectorsAfter .ok)
  | cons e' es =>
    obtain ⟨u, hu, -, -, hsec, -⟩ := finishHead_of_next (s := s1) (by rw [hq]; rfl)
    rw [hu, State.begin_sectors, hsec]
    exact h.sectors

/-- The poll read that completes the command in flight (R164, R72). -/
theorem Completing.executed {i : Instr} {es : List Elem} {s : State} {d : Draw} {ds : List Draw}
    (h : Completing i s d ds) (hd : Driven s) (hq : s.q = .ins i :: es) (hf : s.flight = .running i) :
    ∃ t, Executed 1 i es
      ⟨[.r ((pollReg (i.ins s.cfg).pk).address s.cfg) d.value], .ok, ds⟩ s t := by
  obtain ⟨t, hexec, -, -, hdev⟩ := h.exec_running hf
  rw [h.exec_finishHead] at hexec
  cases hexec
  obtain ⟨hp, hn, ha, hok, hclear⟩ := h
  have hs := engineStep_wait_clear hp (step_wait hp hq rfl) hn ha hok hclear
  have hr := transacted_readReg (pollReg (i.ins s.cfg).pk) s
  have hq1 := hr.q.trans hq
  have hstands := standsAt_finishHead (s.readReg (pollReg (i.ins s.cfg).pk)).2.2
  rw [hq1] at hstands
  exact ⟨_, run_of_step Sys2Proof.core hs.step 0, hs.follows hd fun hne => absurd rfl hne, hstands,
    ⟨_, hdev⟩, (State.finishHead_tainted _).trans hr.tainted,
    (State.finishHead_sectorSize _).trans hr.sectorSize, hr.finishHead_sectors hq1⟩

/-- From ISSUE: the command word, and the poll read that shows the bit clear (R184, R164). -/
theorem Driven.executed_issue {s : State} (hd : Driven s) {i : Instr} {es : List Elem}
    (hq : s.q = .ins i :: es) (hp : s.ph = .issue)
    (hdecode : decodeStaged s.cfg (encIns s.cfg (i.ins s.cfg)) s.regs.addr s.regs.buf.toList = some i)
    (ht : 0 < (i.ins s.cfg).timeout) {d1 d2 : Draw} {ds : List Draw} (htape : s.env.tape = d1 :: d2 :: ds)
    (hok1 : d1.ok = true) (hok2 : d2.ok = true)
    (hclear : pending s.cfg (i.ins s.cfg).pk d2.value = false) :
    ∃ t, Executed 2 i es ⟨[.w s.cfg.aCmd (encIns s.cfg (i.ins s.cfg)),
      .r ((pollReg (i.ins s.cfg).pk).address s.cfg) d2.value], .ok, ds⟩ s t := by
  have ha : Answered s d1 (d2 :: ds) := ⟨hd.mode, htape⟩
  have hstep := hd.step_issue hq hp
  rw [ha.issueStep_ok hok1, ha.write_command_ok hok1 (encIns_act hd.cfg (hd.head_wf hq)), hdecode]
    at hstep
  have hs := EngineStep.mk (tr := [.w s.cfg.aCmd (encIns s.cfg (i.ins s.cfg))]) (ds := d2 :: ds)
    (by simp [engineTurn, hp]) hstep hd.mode rfl rfl
  have hf := hs.follows hd (r := .ok) fun hne => absurd rfl hne
  have hcompleting : Completing i _ d2 ds :=
    ⟨rfl, ht.ne, ⟨hf.driven.mode, hf.tape⟩, hok2, hclear⟩
  obtain ⟨t, hx⟩ := hcompleting.executed hf.driven hq rfl
  exact ⟨t, hs.executed hd hx rfl rfl rfl rfl⟩

/-- The controller takes the word of the write-enable for it, whatever its registers hold (R80). -/
theorem decodeStaged_wren {c : Cfg} (hc : c.wf = true) (addr : Word) (buf : List Word) :
    decodeStaged c (encIns c (Instr.wren.ins c)) addr buf = some .wren :=
  controllerDecodesTheInstruction c .wren addr buf hc rfl nofun
    (by simp [Instr.payload, divUp])

/-- The controller takes the word of a sector erase for that of the sector in its address register (R80). -/
theorem decodeStaged_se {c : Cfg} (hc : c.wf = true) (addr : Word) (buf : List Word) :
    decodeStaged c (encIns c ((Instr.se addr).ins c)) addr buf = some (.se addr) :=
  controllerDecodesTheInstruction c (.se addr) addr buf hc rfl (fun _ => rfl)
    (by simp [Instr.payload, divUp])

theorem StandsAt.done {s : State} (h : StandsAt [] s) : s.ph = .done ∧ s.res = .ok := by
  cases h with
  | ended hp hr => exact ⟨hp, hr⟩

theorem StandsAt.se {a : Word} {es : List Elem} {s : State} (h : StandsAt (.ins (.se a) :: es) s) :
    s.ph = .addr ∧ s.q = .ins (.se a) :: es := by
  cases h with
  | begun u hq =>
    rw [begin_addr hq rfl]
    exact ⟨rfl, hq⟩

/-- A sector erase from its beginning: the address, the command word, and the poll read (R187, R200). -/
theorem Driven.executed_se {s : State} (hd : Driven s) {a : Word} {es : List Elem}
    (hstands : StandsAt (.ins (.se a) :: es) s) (ht : 0 < s.cfg.tSe) {d1 d2 d3 : Draw} {ds : List Draw}
    (htape : s.env.tape = d1 :: d2 :: d3 :: ds) (hok1 : d1.ok = true) (hok2 : d2.ok = true)
    (hok3 : d3.ok = true) (hclear : pending s.cfg .act d3.value = false) :
    ∃ t, Executed 3 (.se a) es ⟨[.w s.cfg.aAddr a, .w s.cfg.aCmd (encIns s.cfg ((Instr.se a).ins s.cfg)),
      .r s.cfg.aCmd d3.value], .ok, ds⟩ s t := by
  obtain ⟨hp, hq⟩ := hstands.se
  have ha : Answered s d1 (d2 :: d3 :: ds) := ⟨hd.mode, htape⟩
  have hstep := step_addr hq hp rfl
  rw [ha.addrStep_ok hok1] at hstep
  have hs := EngineStep.mk (tr := [.w s.cfg.aAddr a]) (ds := d2 :: d3 :: ds)
    (by simp [engineTurn, hp]) hstep hd.mode rfl rfl
  have hf := hs.follows hd (r := .ok) fun hne => absurd rfl hne
  obtain ⟨t, hx⟩ := hf.driven.executed_issue hq rfl (decodeStaged_se hd.cfg a _) ht hf.tape hok2 hok3 hclear
  exact ⟨t, hs.executed hd hx rfl rfl rfl rfl⟩

/-! ### The whole operation -/

/-- Where the engine's geometry is the device's, whole sectors make up the array, so an offset inside it lies
in a sector that the engine has a flag for (R29, R8 (e)). -/
theorem Geometry.index_lt {s : State} (h : Geometry s) (hc : s.cfg.wf = true)
    (hsize : s.sectorSize = s.cfg.sectorSize) (hflash : s.flashSize = s.cfg.flashSize) {a : Nat}
    (ha : a < s.flashSize) : a / s.sectorSize < s.sectors.length := by
  simp only [Cfg.wf, Cfg.wfGeometry, Bool.and_eq_true, decide_eq_true_eq] at hc
  obtain ⟨⟨-, -, hdvd, -⟩, -⟩ := hc
  rw [h.length]
  refine Nat.div_lt_div_of_lt_of_dvd (Nat.dvd_of_mod_eq_zero ?_) ha
  rwa [hsize, hflash]

/-- A write-enable makes an unprotected device ready, so a sector erase right after it erases the sector and
no other byte (R190, R200, log 10); a latch that was set before stays set (log 48). -/
theorem Device.read_apply_se_of_wren {c : Cfg} {d : Device} {a : Word} (hsr1 : d.sr1 = 0#8)
    (ha : a.toNat % c.sectorSize = 0) (hlt : a.toNat < c.flashSize) (k n x : Nat) :
    ((d.apply c .oracle k .wren).apply c .oracle n (.se a)).flash.read c x =
      if a.toNat ≤ x ∧ x < a.toNat + c.sectorSize then c.erasedByte else d.flash.read c x := by
  have haccepts : (d.apply c .oracle k .wren).flashAccepts .oracle = true := by
    simp [Device.apply, Device.writeEnable, Device.flashAccepts, hsr1]
  rw [Device.apply_se_of_accepts haccepts ha hlt]
  exact Memory.read_eraseRange c a.toNat c.sectorSize x d.flash

/-- Settles O60: the step of acceptance, the two of the write-enable, the three of the sector erase. -/
theorem eraseSectorEndToEnd : Obligations.EraseSectorEndToEnd := by
  intro s off d1 d2 d3 d4 d5 ds hinv hsub ht hprobed hsize hflash halign hlt hprot hsr1 htw hts hmode
    htape hok1 hok2 hok3 hok4 hok5 hclear2 hclear5
  obtain ⟨hstore, hcontrol⟩ := inv_iff.mp hinv
  have haccept := hsub.step_eraseSector ht hprobed halign hlt hprot
  have hd : Driven (s.eraseAccepted off) := ⟨hstore.cfg, hmode, controlOk_step hcontrol haccept⟩
  obtain ⟨u, hu⟩ := hd.executed_issue rfl rfl (decodeStaged_wren hstore.cfg _ _) htw htape hok1 hok2 hclear2
  have hcfg : u.cfg = s.cfg := hu.follows.cfg
  obtain ⟨t, hx⟩ := hu.follows.driven.executed_se hu.stands (hcfg ▸ hts) hu.follows.tape hok3 hok4 hok5
    (hcfg ▸ hclear5)
  have hsectors : t.sectors =
      markFrom (some (off.toNat / s.sectorSize, off.toNat / s.sectorSize)) .yes 0 s.sectors := by
    rw [hx.sectors, if_pos rfl, State.sectorsAfter, hu.follows.req, hu.sectorSize, hu.sectors]
    rfl
  have hflag := erasedFlag_of_markFrom hsectors
  have hindex := hstore.geometry.index_lt hstore.cfg hsize hflash hlt
  obtain ⟨k, hwren⟩ := hu.dev
  obtain ⟨n, herase⟩ := hx.dev
  have hrun := (run_add Sys2Proof.core hu.run 3).trans hx.run
  obtain ⟨hp, hr⟩ := hx.stands.done
  refine ⟨t, (run_of_step Sys2Proof.core haccept 5).trans hrun, hp, hr,
    (hx.tainted.trans hu.tainted).trans ht, ?_, ?_, fun m hm => ?_, fun x => ?_⟩
  · rw [hx.follows.trace, hu.follows.trace, hcfg]
    rfl
  · rw [hflag, if_pos ⟨targeted_single.mpr rfl, hindex⟩]
  · rw [hflag, if_neg fun ⟨htarget, _⟩ => hm (targeted_single.mp htarget)]
  · rw [herase, hwren, hcfg]
    exact Device.read_apply_se_of_wren hsr1 (hsize ▸ halign) (hflash ▸ hlt) k n x

end Sys2Proof.Machine
end

section
/-! PROOFS. The page program at its completing read (R220). -/
namespace Sys2Proof.Machine

/-- Settles O18: the completing read applies the program that the controller took, which may be one of
`buffer[0]`'s byte where the engine's has no bytes (log 8). -/
theorem pageProgramCompletes : Obligations.PageProgramCompletes := by
  intro a b p p' s d ds hc hf hr hp
  obtain ⟨t, hexec, hflight, hq, hdev⟩ := hc.exec_running hf
  rw [Device.apply, Device.program_of_accepts hr.flashAccepts hp] at hdev
  refine ⟨t, hexec, hflight, hq, ?_⟩
  rw [hdev]
  exact ⟨rfl, rfl, rfl, fun x => Memory.read_program s.cfg p' b.toNat x s.dev.flash⟩

end Sys2Proof.Machine
end

section
/-! PROOFS. The status writes at their completing read (R240 to R242), the manufacturer step (R243), and the
write-enables of a status sequence (R252). -/
namespace Sys2Proof.Machine

/-! ### The completing read of a status write -/

/-- On a write-enabled device of a known layout the completing read leaves the contents written in the
status registers, and nothing else of the device but the latch changes (log 9, log 32). -/
theorem Completing.writes_status {i j : Instr} {s : State} {d : Draw} {ds : List Draw} {sr1 sr2 : Byte}
    (h : Completing i s d ds) (hf : s.flight = .running j) (hw : s.dev.wel = true)
    (hl : s.cfg.layoutKnown = true)
    (hj : ∀ n, s.dev.apply s.cfg .oracle n j = s.dev.writeStatus s.cfg .oracle n sr1 sr2) :
    ∃ t, exec i s = .next t ∧ t.flight = .clear ∧ t.q = s.q.tail ∧
      t.dev = { s.dev with sr1 := sr1, sr2 := sr2, wel := false } := by
  obtain ⟨t, hexec, hflight, hq, hdev⟩ := h.exec_running hf
  have hdef : statusDefined s.cfg .oracle = true := by simp [statusDefined, hl]
  exact ⟨t, hexec, hflight, hq, by rw [hdev, hj, Device.writeStatus_of_wel hw hdef]⟩

/-- Settles O19: each of the three is a write of both registers, the one it does not name kept. -/
theorem statusWritesComplete : Obligations.StatusWritesComplete := by
  intro b b0 b1 s d ds hw hl
  exact ⟨fun hc hf => hc.writes_status hf hw hl fun _ => rfl,
    fun hc hf => hc.writes_status hf hw hl fun _ => rfl,
    fun hc hf => hc.writes_status hf hw hl fun _ => rfl⟩

/-! ### Status writes, each with a write-enable of its own -/

/-- The instruction writes the device's status registers (R240 to R242). -/
def StatusWrite (i : Instr) : Prop := i.mnemonic ∈ [Mnemonic.WRSR1, .WRSR2, .WRSR1W]

theorem StatusWrite.ne_wren {i : Instr} (h : StatusWrite i) : i ≠ .wren := by
  rintro rfl
  simp [StatusWrite, Instr.mnemonic] at h

/-- A status write has no address and at least one byte to stage: it begins in BUF (R181, R240 to R242). -/
theorem StatusWrite.begin_eq {i : Instr} (h : StatusWrite i) {s : State} {es : List Elem}
    (hq : s.q = .ins i :: es) : s.begin = { s with ph := .buf, k := 0 } := by
  cases i with
  | wrsr1 | wrsr2 | wrsr1w => exact begin_buf hq Bool.false_ne_true (List.cons_ne_nil _ _)
  | wren | se | ce | pp => simp [StatusWrite, Instr.mnemonic] at h

/-- The given instructions in order, a write-enable before each. -/
def enabledWrites (is : List Instr) : List Elem := is.flatMap fun i => [.ins .wren, .ins i]

@[simp] theorem enabledWrites_nil : enabledWrites [] = [] := rfl

@[simp] theorem enabledWrites_cons (i : Instr) (is : List Instr) :
    enabledWrites (i :: is) = .ins .wren :: .ins i :: enabledWrites is := rfl

/-- The write-enables stand at the even positions. -/
theorem getElem?_enabledWrites_even (is : List Instr) (k : Nat) :
    (enabledWrites is)[2 * k]? = is[k]?.map fun _ => .ins .wren := by
  induction is generalizing k with
  | nil => rfl
  | cons i is ih =>
    cases k with
    | zero => rfl
    | succ k => simpa [Nat.mul_succ] using ih k

/-- The instructions stand at the odd positions. -/
theorem getElem?_enabledWrites_odd (is : List Instr) (k : Nat) :
    (enabledWrites is)[2 * k + 1]? = is[k]?.map .ins := by
  induction is generalizing k with
  | nil => rfl
  | cons i is ih =>
    cases k with
    | zero => rfl
    | succ k => simpa [Nat.mul_succ] using ih k

section
variable {is : List Instr} (hs : ∀ i ∈ is, StatusWrite i)
include hs

/-- Every write-enable has a status write right after it. -/
theorem statusWrite_after_wren {k : Nat} (h : (enabledWrites is)[k]? = some (.ins .wren)) :
    ∃ i, (enabledWrites is)[k + 1]? = some (.ins i) ∧ StatusWrite i := by
  obtain ⟨j, rfl | rfl⟩ := k.even_or_odd'
  · rw [getElem?_enabledWrites_even] at h
    obtain ⟨i, hi, -⟩ := Option.map_eq_some_iff.mp h
    exact ⟨i, by rw [getElem?_enabledWrites_odd, hi]; rfl, hs i (List.mem_of_getElem? hi)⟩
  · rw [getElem?_enabledWrites_odd] at h
    obtain ⟨i, hi, hwren⟩ := Option.map_eq_some_iff.mp h
    exact absurd (Elem.ins.inj hwren) (hs i (List.mem_of_getElem? hi)).ne_wren

/-- Every other instruction is a status write and has a write-enable right before it. -/
theorem wren_before_statusWrite {k : Nat} {i : Instr} (h : (enabledWrites is)[k]? = some (.ins i))
    (hi : i ≠ .wren) :
    StatusWrite i ∧ 0 < k ∧ (enabledWrites is)[k - 1]? = some (.ins .wren) := by
  obtain ⟨j, rfl | rfl⟩ := k.even_or_odd'
  · rw [getElem?_enabledWrites_even] at h
    obtain ⟨-, -, hwren⟩ := Option.map_eq_some_iff.mp h
    exact absurd (Elem.ins.inj hwren).symm hi
  · rw [getElem?_enabledWrites_odd] at h
    obtain ⟨i', hj, heq⟩ := Option.map_eq_some_iff.mp h
    obtain rfl := Elem.ins.inj heq
    refine ⟨hs i' (List.mem_of_getElem? hj), Nat.succ_pos _, ?_⟩
    rw [Nat.add_sub_cancel, getElem?_enabledWrites_even, hj]
    rfl

/-- There are as many write-enables as status writes. -/
theorem count_wren_enabledWrites : (enabledWrites is).count (.ins .wren) = is.length := by
  induction is with
  | nil => rfl
  | cons i is ih =>
    obtain ⟨hi, his⟩ := List.forall_mem_cons.mp hs
    have hne : Elem.ins i ≠ .ins .wren := fun he => hi.ne_wren (Elem.ins.inj he)
    rw [enabledWrites_cons, List.count_cons_self, List.count_cons_of_ne hne, ih his, List.length_cons]

end

/-! ### The continuations -/

/-- A continuation is a status write, then status writes with a write-enable before each: two in the vendor
family's `protectDisable`, one otherwise (R245). -/
theorem continuation_eq {r : Request} (hr : r = .quadEnable ∨ r = .protectDisable) (b : Bucket) :
    ∃ i is, (∀ j ∈ i :: is, StatusWrite j) ∧ continuation r b = .ins i :: enabledWrites is ∧
      (i :: is).length = if r = .protectDisable ∧ b = .vendorA then 2 else 1 := by
  obtain rfl | rfl := hr <;> cases b
  · exact ⟨.wrsr2 0x02#8, [], by simp [StatusWrite, Instr.mnemonic], rfl, rfl⟩
  · exact ⟨.wrsr1w 0x00#8 0x02#8, [], by simp [StatusWrite, Instr.mnemonic], rfl, rfl⟩
  · exact ⟨.wrsr2 0x02#8, [.wrsr1 0x00#8], by simp [StatusWrite, Instr.mnemonic], rfl, rfl⟩
  · exact ⟨.wrsr1w 0x00#8 0x02#8, [], by simp [StatusWrite, Instr.mnemonic], rfl, rfl⟩

/-- Settles O37: the expansion's write-enable is that of the continuation's first status write. -/
theorem oneWriteEnablePerStatusWrite : Obligations.OneWriteEnablePerStatusWrite := by
  intro c r b hr es
  have hexp : expansion c r = [.ins .wren, .mfr] := by obtain rfl | rfl := hr <;> rfl
  obtain ⟨i, is, hs, hcont, hlen⟩ := continuation_eq hr b
  have hes : es = enabledWrites (i :: is) := by simp [es, hexp, hcont]
  rw [hes]
  exact ⟨hexp, fun k => ⟨statusWrite_after_wren hs, fun j => wren_before_statusWrite hs⟩,
    (count_wren_enabledWrites hs).trans hlen⟩

/-! ### The manufacturer step -/

/-- A continuation begins in BUF, with its first status write (R181, R245). -/
theorem start_continuation {r : Request} (hr : r = .quadEnable ∨ r = .protectDisable) (b : Bucket)
    (s : State) :
    s.start (continuation r b) = { s with q := continuation r b, ph := .buf, k := 0 } := by
  obtain ⟨i, is, hs, hcont, -⟩ := continuation_eq hr b
  exact (hs i List.mem_cons_self).begin_eq (s := { s with q := continuation r b }) hcont

/-- Settles O36: the step is the one read of the register at `A_MFR`, taken apart by its answer. -/
theorem manufacturerStep : Obligations.ManufacturerStep := by
  intro s d ds es hwf hp hq hr ha
  have hcont : continuation s.req .generic ≠ [] := by obtain h | h := hr <;> simp [h, continuation]
  have hstep := step_mfr hp hq hcont
  rw [← mfrReg_address hwf]
  refine ⟨fun hok => ⟨_, hstep, ?_⟩, fun hok => ⟨_, hstep, ?_⟩⟩
  · rw [ha.mfrRead_fail hok]
    refine ⟨rfl, rfl, rfl, ?_, ha.readReg_trace_fail hok _⟩
    simp [taints, hp]
  · obtain ⟨hdev, -, -⟩ := State.readReg_oracle ha.1 (mfrReg s.cfg)
    rw [ha.mfrRead_ok hok, start_continuation hr]
    refine ⟨ha.readReg_trace_ok hok _, rfl, rfl, hdev, fun hm => ⟨fun h => ?_, fun h => ?_⟩,
      fun hm => ?_⟩
    · simp [bucketOf, hm, h, continuation]
    · simp [bucketOf, hm, h, continuation]
    · obtain h | h := hr <;> simp [bucketOf, hm, h, continuation]

end Sys2Proof.Machine
end

section
/-! PROOFS. The host's calls and moves (R270 to R272, R285 to R287): the step that takes one up, said once, and
from that probe, `erase`, the stubs. -/
namespace Sys2Proof.Machine

/-! ### The host's step -/

/-- In IDLE the step makes the next move of the call in progress. -/
theorem step_move {s : State} {m : Move} {ms : List Move} (hp : s.ph = .idle) (hm : s.host.moves = m :: ms) :
    step s = hostMove m { s with host := { s.host with moves := ms } } := by
  simp [step, fetch, hp, hostStep, hm]

/-- In IDLE, no move being left, the step begins the next call. -/
theorem step_call {s : State} {c : Call} {cs : List Call} (hp : s.ph = .idle) (hm : s.host.moves = [])
    (hi : s.host.inbox = c :: cs) : step s = beginCall c { s with host := { s.host with inbox := cs } } := by
  simp [step, fetch, hp, hostStep, hm, hi]

/-- While `tainted` is clear a guarded move is made (R27, R354). -/
theorem guarded_of_untainted {s : State} (ht : s.tainted = false) (o : Host.Outcome State Fault Refusal) :
    (if s.tainted then .refused .whileTainted else o) = o := by
  simp [ht]

/-! ### Probe -/

/-- Probing a probed bank returns success and does nothing (R286, R287). -/
theorem step_probe_of_probed {s : State} {c : Call} {cs : List Call} (hp : s.ph = .idle)
    (hm : s.host.moves = []) (hi : s.host.inbox = c :: cs) (hc : c = .probe ∨ c = .autoProbe)
    (hprobed : s.probed = true) :
    step s = .next { s with host := { s.host with inbox := cs, res := .ok, moves := [] } } := by
  have hbegin : State.beginProbe { s with host := { s.host with inbox := cs } } =
      State.hostReturn .ok { s with host := { s.host with inbox := cs } } := if_pos hprobed
  rw [step_call hp hm hi]
  obtain rfl | rfl := hc <;> exact congrArg Host.Outcome.next hbegin

/-- Probing an unprobed bank lays out its moves (R285). -/
theorem step_probe_of_unprobed {s : State} {c : Call} {cs : List Call} (hp : s.ph = .idle)
    (hm : s.host.moves = []) (hi : s.host.inbox = c :: cs) (hc : c = .probe ∨ c = .autoProbe)
    (hprobed : s.probed = false) :
    step s = .next (State.plan probeMoves { s with host := { s.host with inbox := cs } }) := by
  have hbegin : State.beginProbe { s with host := { s.host with inbox := cs } } =
      State.plan probeMoves { s with host := { s.host with inbox := cs } } := if_neg (by simp [hprobed])
  rw [step_call hp hm hi]
  obtain rfl | rfl := hc <;> exact congrArg Host.Outcome.next hbegin

/-- Settles O53: probing a probed bank does nothing. -/
theorem reprobeIsANoOp : Obligations.ReprobeIsANoOp :=
  fun _ _ hp hm hi hprobed => step_probe_of_probed hp hm hi (.inl rfl) hprobed

/-- A move of probe that writes the cache-control register (R285 (4), (7)). -/
theorem step_setCache {s : State} {m : Move} {ms : List Move} {w : Word} {on : Bool} (hp : s.ph = .idle)
    (hm : s.host.moves = m :: ms) (ht : s.tainted = false)
    (h : m = .cacheOff ∧ w = Config.cacheOffWord ∧ on = false ∨
      m = .cacheOn ∧ w = Config.cacheOnWord ∧ on = true) :
    step s = .next (State.setCache w on { s with host := { s.host with moves := ms } }) := by
  rw [step_move hp hm]
  obtain ⟨rfl, rfl, rfl⟩ | ⟨rfl, rfl, rfl⟩ := h <;> exact guarded_of_untainted ht _

/-- The move of probe that writes the config register (R285 (5)). -/
theorem step_clockConfig {s : State} {ms : List Move} (hp : s.ph = .idle)
    (hm : s.host.moves = .clockConfig :: ms) (ht : s.tainted = false) :
    step s = .next (State.setClock { s with host := { s.host with moves := ms } }) :=
  (step_move hp hm).trans (guarded_of_untainted ht _)

/-- Settles O54: the beginning of the call, the cache writes, the clock write, and the setting of `probed`. -/
theorem probeSequence : Obligations.ProbeSequence := by
  intro s hp
  refine ⟨fun c cs hm hi hc hprobed => step_probe_of_unprobed hp hm hi hc hprobed,
    fun cs hm hi hprobed => step_probe_of_probed hp hm hi (.inr rfl) hprobed,
    fun m ms d ds w on hm ht ha hw => ?_, fun ms d ds hm ht ha => ?_, step_move hp⟩
  · let u : State := { s with host := { s.host with moves := ms } }
    have hu : Answered u d ds := ha
    rw [step_setCache hp hm ht hw]
    exact ⟨fun hok => congrArg _ (hu.poke_ok hok (r := .cache) nofun _ _ _),
      fun hok => congrArg _ (hu.poke_fail hok (r := .cache) nofun _ _ _)⟩
  · let u : State := { s with host := { s.host with moves := ms } }
    have hu : Answered u d ds := ha
    rw [step_clockConfig hp hm ht]
    exact ⟨fun hok => congrArg _ (hu.poke_ok hok (r := .cfg) nofun _ _ _),
      fun hok => congrArg _ (hu.poke_fail hok (r := .cfg) nofun _ _ _)⟩

/-! ### The version read -/

/-- A version ID of the table sets the geometry of its record (R285 (3)). -/
theorem Answered.readVersion_match {s : State} {d : Draw} {ds : List Draw} (h : Answered s d ds)
    (hok : d.ok = true) {spec : DeviceSpec}
    (hf : s.cfg.deviceTable.find? (fun e => decide (e.versionId = d.value)) = some spec) :
    s.readVersion = (s.readReg .id).2.2.setGeometry spec := by
  rw [State.readVersion, h.read_ok hok]
  dsimp only
  rw [hf]

/-- A version ID that is not in the table ends the call (R285 (2)). -/
theorem Answered.readVersion_noMatch {s : State} {d : Draw} {ds : List Draw} (h : Answered s d ds)
    (hok : d.ok = true)
    (hf : s.cfg.deviceTable.find? (fun e => decide (e.versionId = d.value)) = none) :
    s.readVersion = (s.readReg .id).2.2.hostReturn (.protocol .notProbed) := by
  rw [State.readVersion, h.read_ok hok]
  dsimp only
  rw [hf]

/-- A failed version read ends the call (log 34). -/
theorem Answered.readVersion_fail {s : State} {d : Draw} {ds : List Draw} (h : Answered s d ds)
    (hok : d.ok = false) : s.readVersion = (s.readReg .id).2.2.hostReturn .transport := by
  rw [State.readVersion, h.read_fail hok]

/-- Every sector of a geometry that is set has both flags unknown (R47, R285 (3)). -/
theorem setGeometry_flags {spec : DeviceSpec} {s : State} {n : Nat}
    (h : n < (s.setGeometry spec).sectors.length) :
    erasedFlag (s.setGeometry spec) n = some .unknown ∧ protFlag (s.setGeometry spec) n = some .unknown := by
  rw [State.setGeometry_sectors, List.length_replicate] at h
  simp [erasedFlag, protFlag, h]

/-- Settles O55: the version read, by its answer and by what the table holds for it. -/
theorem probeMatchesTheVersion : Obligations.ProbeMatchesTheVersion := by
  intro s d ds ms hp ht hm ha ended
  let u : State := { s with host := { s.host with moves := ms } }
  have hu : Answered u d ds := ha
  obtain ⟨hdev, -, -⟩ := State.readReg_oracle hu.1 .id
  have hstep : step s = .next u.readVersion := (step_move hp hm).trans (guarded_of_untainted ht _)
  have hended : ∀ x y, (u.readReg .id).2.2.trace = s.trace ++ [y] →
      ended ((u.readReg .id).2.2.hostReturn x) x y := fun x y htrace =>
    ⟨rfl, rfl, State.readReg_sectors .id u, State.readReg_sectorSize .id u, State.readReg_flashSize .id u,
      State.readReg_probed .id u, hdev, htrace⟩
  refine ⟨fun hok => ⟨fun spec hf => ⟨_, hstep, ?_⟩, fun hf => ⟨_, hstep, ?_⟩⟩, fun hok => ⟨_, hstep, ?_⟩⟩
  · rw [hu.readVersion_match hok hf]
    exact ⟨rfl, rfl, List.length_replicate, fun n => setGeometry_flags,
      congrArg HostCtx.moves (State.readReg_host .id u), hu.readReg_trace_ok hok .id⟩
  · rw [hu.readVersion_noMatch hok hf]
    exact hended _ _ (hu.readReg_trace_ok hok .id)
  · rw [hu.readVersion_fail hok]
    exact hended _ _ (hu.readReg_trace_fail hok .id)

/-! ### Erase, the stubs -/

/-- Before a probe `erase` and `write` end with NOT_PROBED (R271, R273). -/
theorem step_of_unprobed {s : State} {c : Call} {cs : List Call} (hp : s.ph = .idle)
    (hm : s.host.moves = []) (hi : s.host.inbox = c :: cs) (hprobed : s.probed = false)
    (hc : (∃ f l, c = .erase f l) ∨ ∃ b off n, c = .write b off n) :
    ∃ t, step s = .next t ∧ t.host.res = .protocol .notProbed ∧ t.host.moves = [] ∧ t.regs = s.regs ∧
      t.dev = s.dev := by
  refine ⟨State.hostReturn (.protocol .notProbed) { s with host := { s.host with inbox := cs } }, ?_,
    rfl, rfl, rfl, rfl⟩
  rw [step_call hp hm hi]
  obtain ⟨f, l, rfl⟩ | ⟨b, off, n, rfl⟩ := hc <;> simp [beginCall, hprobed]

/-- Move `j` of `erase(first, last)` is the sector erase of sector `first + j` (R271). -/
theorem getElem?_eraseCall (s : State) {f l j : Nat} (h : f + j ≤ l) :
    (s.eraseCall f l)[j]? = some (submitAt ((f + j) * s.sectorSize) .eraseSector) := by
  have hj : j < l + 1 - f := by omega
  simp [State.eraseCall, hj]

/-- Settles O56: the call's moves one by one, and the two moves that are refused. -/
theorem eraseCallIsAscending : Obligations.EraseCallIsAscending := by
  refine ⟨fun s f l cs hp hm hi =>
      ⟨fun hprobed => step_of_unprobed hp hm hi hprobed (.inl ⟨f, l, rfl⟩), fun hprobed => ?_⟩,
    fun s ms hp ht => ⟨fun off hm hc hoff => ?_, step_move hp⟩⟩
  · rw [step_call hp hm hi]
    simp only [beginCall, hprobed, Bool.not_true, Bool.false_eq_true, if_false]
    exact ⟨_, rfl, by simp [State.eraseCall], fun j => getElem?_eraseCall _⟩
  · exact (outsidePreconditionRefused s ht).1 off ⟨hp, .inl ⟨ms, hm⟩⟩ hc (.inr hoff)

/-- Settles O58: a stub returns a free value, and `massErase` is the acceptance of the chip erase. -/
theorem stubsTouchNothing : Obligations.StubsTouchNothing := by
  intro s c cs hp hm hi
  rw [step_call hp hm hi]
  refine ⟨fun hc => ?_, fun hc => ?_⟩
  · obtain rfl | rfl | ⟨b, f, l, rfl⟩ := hc <;>
      exact ⟨_, rfl, hp, rfl, rfl, rfl, rfl, rfl, rfl, rfl⟩
  · subst hc
    rfl

end Sys2Proof.Machine
end

section
/-! PROOFS. Rounding up (R11), the envelope of a write (R274, R275), and the page programs of the slow path
(R278 to R280). -/
namespace Sys2Proof.Machine

/-! ### Rounding up -/

/-- Block `k` is among the `divUp n m` blocks of `n` bytes exactly where it starts before byte `n`. -/
theorem lt_divUp_iff {n m k : Nat} (hm : 0 < m) : k < divUp n m ↔ k * m < n := by
  rw [divUp, Nat.lt_iff_add_one_le, Nat.le_div_iff_mul_le hm, Nat.succ_mul]
  omega

theorem le_divUp_mul (n : Nat) {m : Nat} (hm : 0 < m) : n ≤ divUp n m * m :=
  not_lt.mp fun h => lt_irrefl _ ((lt_divUp_iff hm).mpr h)

theorem divUp_mul_lt (n : Nat) {m : Nat} (hm : 0 < m) : divUp n m * m < n + m := by
  have h : divUp n m * m ≤ n + m - 1 := Nat.div_mul_le_self _ _
  omega

/-! ### The envelope -/

section
variable {pageSize : Nat} (offset count : Nat)

theorem envStart_le : envStart pageSize offset ≤ offset := Nat.div_mul_le_self _ _

theorem lt_envStart_add (h : 0 < pageSize) : offset < envStart pageSize offset + pageSize :=
  Nat.lt_div_mul_add h

theorem add_le_envEnd (h : 0 < pageSize) : offset + count ≤ envEnd pageSize offset count := le_divUp_mul _ h

theorem envEnd_lt (h : 0 < pageSize) : envEnd pageSize offset count < offset + count + pageSize :=
  divUp_mul_lt _ h

/-- A write of some bytes touches at least its first page. -/
theorem envStart_add_le_envEnd {count : Nat} (h : 0 < pageSize) (hcount : 0 < count) :
    envStart pageSize offset + pageSize ≤ envEnd pageSize offset count := by
  have hfirst : firstPage pageSize offset * pageSize < offset + count :=
    (envStart_le offset).trans_lt (Nat.lt_add_of_pos_right hcount)
  have hlast : firstPage pageSize offset < lastPage pageSize offset count := (lt_divUp_iff h).mpr hfirst
  calc envStart pageSize offset + pageSize = (firstPage pageSize offset + 1) * pageSize :=
        (Nat.succ_mul _ _).symm
    _ ≤ envEnd pageSize offset count := Nat.mul_le_mul_right _ hlast

end

/-- Settles O52: the envelope rounds the first byte down and the byte after the last up. -/
theorem envelopeCoversTheWrite : Obligations.EnvelopeCoversTheWrite := by
  intro pageSize offset count hpage hcount
  have hstart := lt_envStart_add offset hpage
  have hend := envEnd_lt offset count hpage
  have hlen := envStart_add_le_envEnd offset hpage hcount
  exact ⟨envStart_le offset, add_le_envEnd offset count hpage, Nat.mul_mod_left _ _, Nat.mul_mod_left _ _,
    by omega, by omega, by omega⟩

/-! ### The slow path -/

/-- The bytes of the page program `j` of the slow path (R279). -/
def chunkAt (chunk : Nat) (buffer : List Byte) (j : Nat) : List Byte := (buffer.drop (j * chunk)).take chunk

@[simp] theorem length_chunkAt (chunk : Nat) (buffer : List Byte) (j : Nat) :
    (chunkAt chunk buffer j).length = min chunk (buffer.length - j * chunk) := by
  simp [chunkAt]

theorem getElem?_chunkAt {chunk : Nat} {buffer : List Byte} {j i : Nat}
    (h : i < (chunkAt chunk buffer j).length) : (chunkAt chunk buffer j)[i]? = buffer[j * chunk + i]? := by
  have hi : i < chunk := (lt_min_iff.mp (length_chunkAt .. ▸ h)).1
  simp [chunkAt, hi]

theorem chunkAt_ne_nil {chunk : Nat} {buffer : List Byte} {j : Nat} (hchunk : 0 < chunk)
    (h : j < divUp buffer.length chunk) : chunkAt chunk buffer j ≠ [] := by
  have hj : j * chunk < buffer.length := (lt_divUp_iff hchunk).mp h
  rw [← List.length_pos_iff, length_chunkAt]
  omega

@[simp] theorem length_programMoves (chunk start : Nat) (buffer : List Byte) :
    (programMoves chunk start buffer).length = divUp buffer.length chunk := by
  simp [programMoves]

theorem getElem?_programMoves {chunk : Nat} (start : Nat) {buffer : List Byte} {j : Nat}
    (h : j < divUp buffer.length chunk) : (programMoves chunk start buffer)[j]? =
      some (submitAt (start + j * chunk) fun a => .pageProgram a (chunkAt chunk buffer j)) := by
  simp [programMoves, h, chunkAt]

/-- Settles O59: each page program's bytes and place, and the transfer step by the bulk path's allocation. -/
theorem slowPathCoversTheEnvelope : Obligations.SlowPathCoversTheEnvelope := by
  refine ⟨fun chunk start buffer hchunk => ⟨length_programMoves .., fun j hj => ?_, fun x hx => ?_⟩,
    ?_⟩
  · exact ⟨chunkAt chunk buffer j, getElem?_programMoves start hj, length_chunkAt .., chunkAt_ne_nil hchunk hj,
      fun i => getElem?_chunkAt⟩
  · exact (lt_divUp_iff hchunk).mpr ((Nat.div_mul_le_self x chunk).trans_lt hx)
  · intro s start ms hp ht hm next
    let u : State := { s with host := { s.host with moves := ms } }
    have hstep : step s = transferStep start u := (step_move hp hm).trans (guarded_of_untainted ht _)
    rw [hstep]
    refine ⟨fun hb => transferStep_slow (s := u) hb start, fun d ds hb htape => ?_⟩
    rw [transferStep_bulk (s := u) hb htape]
    exact ⟨fun hok => if_neg (by simp [hok]), fun hok => if_pos hok⟩

end Sys2Proof.Machine
end

section
/-! PROOFS. A write up to its erase step (R273 to R277): the fringes and the caller's bytes fill the scratch
buffer move by move, and what it then holds at each offset of the envelope. -/
namespace Sys2Proof.Machine

/-! ### Reading the array -/

@[simp] theorem length_flashBytes (s : State) (start len : Nat) : (s.flashBytes start len).length = len := by
  simp [State.flashBytes]

theorem getElem?_flashBytes (s : State) (start : Nat) {len i : Nat} (h : i < len) :
    (s.flashBytes start len)[i]? = some (s.dev.flash.read s.cfg (start + i)) := by
  simp [State.flashBytes, h]

/-- A fringe inside the array is read where nothing is in flight (R60, R352). -/
theorem step_fringe {s : State} {start len : Nat} {ms : List Move} (hp : s.ph = .idle)
    (ht : s.tainted = false) (hf : s.flight = .clear) (hm : s.host.moves = .fringe start len :: ms)
    (hin : start + len ≤ s.cfg.flashSize) :
    step s = .next (State.readFringe start len { s with host := { s.host with moves := ms } }) := by
  rw [step_move hp hm, hostMove, guarded_of_untainted (s := { s with host := { s.host with moves := ms } }) ht]
  simp [fringeStep, hf, hin]

/-! ### The scratch buffer fills -/

/-- The write's moves still to make, and what the scratch buffer holds. -/
def State.staged (ms : List Move) (p : List Byte) (s : State) : State :=
  { s with host := { s.host with moves := ms, scratch := p } }

/-- The host can read the array: nothing is in flight, and every read answers ok (R80, R352). -/
structure CanRead (s : State) : Prop where
  ph : s.ph = .idle
  tainted : s.tainted = false
  flight : s.flight = .clear
  mode : s.env.mode = .reference

section
variable {s : State}

theorem CanRead.reaches_fringe (h : CanRead s) {start len : Nat} (ms : List Move) (p : List Byte)
    (hin : start + len ≤ s.cfg.flashSize) :
    Reaches (s.staged (fringeMove start len ++ ms) p) (s.staged ms (p ++ s.flashBytes start len)) := by
  unfold fringeMove
  split
  · have hread : State.readFringe start len (s.staged ms p) = s.staged ms (p ++ s.flashBytes start len) := by
      simp [State.readFringe, State.hostOk, State.hostPop, State.staged, h.mode, State.flashBytes]
    refine Reaches.head ?_ (Reaches.refl _)
    rw [← hread]
    exact step_fringe (s := s.staged _ p) h.ph h.tainted h.flight rfl hin
  · obtain rfl : len = 0 := by omega
    simpa [State.flashBytes] using Reaches.refl (s.staged ms p)

theorem CanRead.reaches_copy (h : CanRead s) (b : List Byte) (ms : List Move) (p : List Byte) :
    Reaches (s.staged (.copy b :: ms) p) (s.staged ms (p ++ b)) :=
  (Reaches.refl _).head (step_move (s := s.staged _ p) h.ph rfl)

end

/-! ### What it holds -/

/-- The scratch buffer of a write, complete: the caller's bytes between the device's (R276). -/
def State.envelopeBytes (b : List Byte) (off : Nat) (s : State) : List Byte :=
  let start := envStart s.sectorSize off
  let stop := off + b.length
  s.flashBytes start (off - start) ++ b ++ s.flashBytes stop (envEnd s.sectorSize off b.length - stop)

section
variable {s : State} (b : List Byte) (off : Nat)

theorem length_envelopeBytes (h : 0 < s.sectorSize) : (s.envelopeBytes b off).length =
    envEnd s.sectorSize off b.length - envStart s.sectorSize off := by
  have hstart := envStart_le (pageSize := s.sectorSize) off
  have hend := add_le_envEnd off b.length h
  simp only [State.envelopeBytes, List.length_append, length_flashBytes]
  omega

/-- At each offset of the envelope: the caller's byte where there is one, else the device's (R276). -/
theorem getElem?_envelopeBytes {x : Nat} (hlo : envStart s.sectorSize off ≤ x)
    (hhi : x < envEnd s.sectorSize off b.length) :
    (s.envelopeBytes b off)[x - envStart s.sectorSize off]? = some (if off ≤ x ∧ x < off + b.length then
      b[x - off]?.getD 0#8 else s.dev.flash.read s.cfg x) := by
  have hstart := envStart_le (pageSize := s.sectorSize) off
  unfold State.envelopeBytes
  dsimp only
  obtain hx | hx | hx : x < off ∨ (off ≤ x ∧ x < off + b.length) ∨ off + b.length ≤ x := by omega
  · rw [List.append_assoc, List.getElem?_append_left (by rw [length_flashBytes]; omega),
      getElem?_flashBytes _ _ (by omega), if_neg (by omega)]
    congr 2
    omega
  · have hi : x - envStart s.sectorSize off - (off - envStart s.sectorSize off) = x - off := by omega
    have hb : x - off < b.length := by omega
    rw [List.append_assoc, List.getElem?_append_right (by rw [length_flashBytes]; omega), length_flashBytes, hi,
      List.getElem?_append_left hb, if_pos hx, List.getElem?_eq_getElem hb, Option.getD_some]
  · rw [List.getElem?_append_right (by rw [List.length_append, length_flashBytes]; omega), List.length_append,
      length_flashBytes, getElem?_flashBytes _ _ (by omega), if_neg (by omega)]
    congr 2
    omega

/-- The moves before the erase step fill the scratch buffer and change nothing else (R276). -/
theorem CanRead.reaches_erase (h : CanRead s) (policy : ErasePolicy) (hsize : 0 < s.sectorSize)
    (hin : envEnd s.sectorSize off b.length ≤ s.cfg.flashSize) :
    Reaches (s.staged (writeMoves policy s.sectorSize b off b.length) [])
      (s.staged (eraseMoves policy s.sectorSize off b.length ++ [.transfer (envStart s.sectorSize off)])
        (s.envelopeBytes b off)) := by
  have hstart := envStart_le (pageSize := s.sectorSize) off
  have hend := add_le_envEnd off b.length hsize
  simp only [writeMoves, List.append_assoc, List.singleton_append]
  exact ((h.reaches_fringe _ [] (by omega)).trans (h.reaches_copy b _ _)).trans
    (h.reaches_fringe _ _ (by omega))

end

/-! ### The call -/

/-- The step that begins a write within the preconditions (R273, R274). -/
theorem step_write {s : State} {b : List Byte} {off n : Nat} {cs : List Call} (hp : s.ph = .idle)
    (hm : s.host.moves = []) (hi : s.host.inbox = .write b off n :: cs) (hprobed : s.probed = true)
    (hn : 0 < n) (hoff : off + n ≤ s.flashSize) :
    step s = .next (State.beginWrite b off n { s with host := { s.host with inbox := cs } }) := by
  rw [step_call hp hm hi]
  simp [beginCall, hprobed, State.writeAllowed, hn, hoff]

/-- A write of no bytes or beyond the flash is refused (R273, R274, D44). -/
theorem step_write_refused {s : State} {b : List Byte} {off n : Nat} {cs : List Call} (hp : s.ph = .idle)
    (hm : s.host.moves = []) (hi : s.host.inbox = .write b off n :: cs) (hprobed : s.probed = true)
    (h : n = 0 ∨ s.flashSize < off + n) : step s = .refused .hostPrecondition := by
  have hnot : ¬ (0 < n ∧ off + n ≤ s.flashSize) := by omega
  rw [step_call hp hm hi]
  simp [beginCall, hprobed, State.writeAllowed, hnot]

/-- The call taken up, its trace empty, is where the write's moves start. -/
def State.writeBegun (cs : List Call) (s : State) : State :=
  { s with trace := [], host := { s.host with inbox := cs } }

/-- Settles O57: a failed read, the two refusals, a buffer of another length, and the moves up to the erase
step. -/
theorem fringesArePreserved : Obligations.FringesArePreserved := by
  refine ⟨fun s start len ms d ds hp ht hf hm hin ha hok => ?_, fun s b off n cs hp hm hi =>
    ⟨fun hprobed => step_of_unprobed hp hm hi hprobed (.inr ⟨b, off, n, rfl⟩),
      step_write_refused hp hm hi, fun hprobed hn hoff hlen => ?_,
      fun hprobed hn hoff hlen hsize hin hmode ht hf => ?_⟩⟩
  · let u : State := { s with host := { s.host with moves := ms } }
    have hu : Answered u d ds := ha
    rw [step_fringe hp ht hf hm hin, hu.fringe_fail hok]
  · rw [step_write hp hm hi hprobed hn hoff, beginWrite_free hlen]
    rfl
  · subst hlen
    have hread : CanRead (s.writeBegun cs) := ⟨hp, ht, hf, hmode⟩
    have hstep : step s = .next ((s.writeBegun cs).staged
        (writeMoves s.cfg.erasePolicy s.sectorSize b off b.length) []) := by
      rw [step_write hp hm hi hprobed hn hoff, beginWrite_exact rfl]
      rfl
    obtain ⟨m, hrun⟩ := (hread.reaches_erase b off s.cfg.erasePolicy hsize hin).head hstep
    refine ⟨m, _, hrun, hp, rfl, rfl, ?_, length_envelopeBytes (s := s.writeBegun cs) b off hsize,
      fun x => getElem?_envelopeBytes (s := s.writeBegun cs) b off⟩
    show eraseMoves s.cfg.erasePolicy s.sectorSize off b.length ++ _ = _
    cases s.cfg.erasePolicy <;> rfl

end Sys2Proof.Machine
end

section
/-! PROOFS. A failure of an instruction's step (R310) and the command that is not issued over another (R352). -/
namespace Sys2Proof.Machine

/-! ### Failures -/

/-- The failures of an instruction's step: a register write or a poll read that answers not ok, and a count
that has run out; the abort is taken in the state the transaction left (R164, R182 to R184, R310). -/
inductive Aborts (s t : State) : Prop where
  | write (hp : s.ph ≠ .wait) (r : Reg) (v : Word) (ht : t = (s.writeReg r v).2.raise .transport)
  | read (pk : Signal) (ht : t = (s.readReg (pollReg pk)).2.2.raise .transport)
  | timeout (ht : t = s.raise .busy)

theorem aborts_addrStep {s : State} (hp : s.ph = .addr) {e : Ins} (hd : (s.addrStep e).ph = .done) :
    Aborts s (s.addrStep e) := by
  obtain ⟨s1, h, he⟩ | ⟨s1, h, ⟨-, he⟩ | ⟨-, he⟩⟩ := addrStep_cases e s <;> rw [he] at hd ⊢
  · exact .write (by simp [hp]) _ _ (by rw [h])
  · cases hd
  · cases hd

theorem aborts_bufStep {s : State} (hp : s.ph = .buf) {e : Ins} {w : Word}
    (hd : (s.bufStep e w).ph = .done) : Aborts s (s.bufStep e w) := by
  obtain ⟨s1, h, he⟩ | ⟨s1, h, ⟨-, he⟩ | ⟨-, he⟩⟩ := bufStep_cases e w s <;> rw [he] at hd ⊢
  · exact .write (by simp [hp]) _ _ (by rw [h])
  · cases hd
  · obtain rfl := snd_of_writeReg h
    simp [hp] at hd

theorem aborts_issueStep {s : State} (hp : s.ph = .issue) {e : Ins} (hd : (s.issueStep e).ph = .done) :
    Aborts s (s.issueStep e) := by
  obtain ⟨s1, h, he⟩ | ⟨s1, h, he⟩ := issueStep_cases e s <;> rw [he] at hd ⊢
  · exact .write (by simp [hp]) _ _ (by rw [h])
  · cases hd

/-- The end of an element ends the operation OK or not at all (R185). -/
theorem finishHead_res_of_done {s : State} (hd : s.finishHead.ph = .done) : s.finishHead.res = .ok := by
  obtain ⟨hq, -⟩ | ⟨hq, he⟩ := finishHead_cases s
  · exact (finishHead_of_last hq).2
  · rw [he] at hd
    exact absurd hd (begin_ph_ne_done hq)

theorem aborts_waitStep {s : State} (hp : s.ph = .wait) {pk : Signal} {n : Nat}
    (hd : (s.waitStep pk n).ph = .done) (hr : (s.waitStep pk n).res ≠ .ok) :
    Aborts s (s.waitStep pk n) := by
  obtain ⟨-, he⟩ | ⟨-, v, s1, h, he⟩ | ⟨-, v, s1, h, ⟨-, he⟩ | ⟨-, he⟩⟩ := waitStep_cases pk n s <;>
    rw [he] at hd hr ⊢
  · exact .timeout rfl
  · exact .read pk (by rw [h])
  · obtain rfl := snd_of_readReg h
    simp [hp] at hd
  · exact absurd (finishHead_res_of_done hd) hr

/-- A step of an instruction that ends the operation without success is an abort. -/
theorem aborts_exec {i : Instr} {s t : State} (h : exec i s = .next t) (hd : t.ph = .done)
    (hr : t.res ≠ .ok) : Aborts s t := by
  obtain ⟨hp, -, rfl⟩ | ⟨hp, -, rfl⟩ | ⟨hp, -, rfl⟩ | ⟨hp, rfl⟩ := exec_cases h
  · exact aborts_addrStep hp hd
  · exact aborts_bufStep hp hd
  · exact aborts_issueStep hp hd
  · exact aborts_waitStep hp hd hr

/-- Which failures of the engine set `tainted`, by the phase they are raised in (R302, R303). -/
theorem taints_iff {f : Res} (hf : f = .transport ∨ f = .busy) (p : Phase) :
    taints f p = true ↔ f = .busy ∨ p = .issue ∨ p = .wait := by
  obtain rfl | rfl := hf
  · cases p <;> simp [taints]
  · simp [taints]

/-- What an abort after a transaction leaves of the engine (R310). -/
theorem Transacted.raise_engine {s s1 : State} (h : Transacted s s1) {f : Res}
    (hf : f = .transport ∨ f = .busy) :
    (s1.raise f).q = [] ∧ ((s1.raise f).res = .transport ∨ (s1.raise f).res = .busy) ∧
    ((s1.raise f).tainted = true ↔
      s.tainted = true ∨ (s1.raise f).res = .busy ∨ s.ph = .issue ∨ s.ph = .wait) ∧
    (s1.raise f).sectors = s.sectorsAfter (s1.raise f).res := by
  refine ⟨rfl, hf, ?_, h.sectorsAfter f⟩
  rw [State.raise_tainted, Bool.or_eq_true, taints_iff hf, h.tainted, h.ph, State.raise_res]

/-- Settles O24: each of the three failures is an abort in the state its transaction left, and under the free
oracle no transaction that fails touches the device, nor a poll read the command in flight. -/
theorem abortIsPrecise : Obligations.AbortIsPrecise := by
  intro i s t h hd hr
  cases aborts_exec h hd hr with
  | write hp r v ht =>
    subst ht
    obtain ⟨hq, hres, htaint, hsec⟩ :=
      (transacted_writeReg r v s).raise_engine (f := .transport) (.inl rfl)
    exact ⟨hq, hres, htaint, hsec, fun _ => State.writeReg_dev r v s, fun hw => absurd hw hp⟩
  | read pk ht =>
    subst ht
    obtain ⟨hq, hres, htaint, hsec⟩ :=
      (transacted_readReg (pollReg pk) s).raise_engine (f := .transport) (.inl rfl)
    refine ⟨hq, hres, htaint, hsec, fun hm => ?_, fun _ hm => ?_⟩
    · obtain ⟨hdev, -, -⟩ := State.readReg_oracle hm (pollReg pk)
      exact hdev
    · obtain ⟨-, hflight, -⟩ := State.readReg_oracle hm (pollReg pk)
      exact hflight
  | timeout ht =>
    subst ht
    obtain ⟨hq, hres, htaint, hsec⟩ :=
      (transacted_refl s).raise_engine (f := .busy) (.inr rfl)
    exact ⟨hq, hres, htaint, hsec, fun _ => rfl, fun _ _ => rfl⟩

/-! ### Hazards -/

/-- A command is not issued over another (R352, log 17). -/
theorem exec_issue_over_flight {i : Instr} {s : State} (hp : s.ph = .issue) (hf : s.flight ≠ .clear) :
    exec i s = .refused .commandInFlight := by
  simp [exec_eq, runPhase, hp, hf]

/-- Settles O26: with nothing in flight the instruction is issued, otherwise the step is refused. -/
theorem noIssueOverACommandInFlight : Obligations.NoIssueOverACommandInFlight := by
  intro i s hp
  refine ⟨fun h hf => ?_, exec_issue_over_flight hp⟩
  rw [exec_issue hp hf] at h
  cases h

end Sys2Proof.Machine
end

section
/-! PROOFS. Commands whose effect the spec leaves open, at their completing read under the free oracle (U2, U7,
U13; log 10, 11, 32). -/
namespace Sys2Proof.Machine

/-! ### Open effects on the device -/

/-- Under the free oracle a device that is not ready is not known to accept an erase or a program (log 10). -/
theorem flashAccepts_of_not_ready {s : State} (h : ¬ Ready s) : s.dev.flashAccepts .oracle = false := by
  rw [← Bool.not_eq_true]
  intro hacc
  exact h (by simpa [Device.flashAccepts, Ready] using hacc)

/-- Under the free oracle an erase at a misaligned or out-of-range offset is not defined (U7). -/
theorem eraseDefined_oracle_eq_false {c : Cfg} {a : Word}
    (h : a.toNat % c.sectorSize ≠ 0 ∨ c.flashSize ≤ a.toNat) : eraseDefined c .oracle a = false := by
  simp only [eraseDefined, decide_eq_false_iff_not, reduceCtorEq, false_or]
  omega

theorem Device.eraseSector_open {c : Cfg} {d : Device} {a : Word}
    (h : d.flashAccepts .oracle = false ∨ eraseDefined c .oracle a = false) (n : Nat) :
    d.eraseSector c .oracle n a = d.loseFlash n := by
  unfold Device.eraseSector
  split
  · rw [if_neg (by simpa [*] using h)]
  · rfl

theorem Device.eraseChip_open {d : Device} (h : d.flashAccepts .oracle = false) (n : Nat) :
    d.eraseChip .oracle n = d.loseFlash n := by
  simp [Device.eraseChip, h, unaccepted]

theorem Device.program_open {c : Cfg} {d : Device} {a : Word} {p : List Byte}
    (h : d.flashAccepts .oracle = false ∨ c.flashSize < a.toNat + p.length) (n : Nat) :
    d.program c .oracle n a p = d.loseFlash n := by
  unfold Device.program
  split
  · rw [if_neg (by simpa [*] using h)]
  · rfl

theorem Device.writeStatus_open {c : Cfg} {d : Device} (h : d.wel = false ∨ c.layoutKnown = false)
    (n : Nat) (sr1 sr2 : Byte) : d.writeStatus c .oracle n sr1 sr2 = d.loseStatus n := by
  unfold Device.writeStatus
  split
  · rw [if_neg (by simpa [*, statusDefined] using h)]
  · rfl

/-! ### The completing read -/

/-- A command that loses the array's content completes, and every byte is free from the draw after the read's
(log 10, log 11). -/
theorem Completing.flash_free {i j : Instr} {s : State} {d : Draw} {ds : List Draw}
    (h : Completing i s d ds) (hf : s.flight = .running j)
    (hlose : ∀ n, s.dev.apply s.cfg .oracle n j = s.dev.loseFlash n) :
    ∃ t, exec i s = .next t ∧ t.flight = .clear ∧ t.q = s.q.tail ∧
      ∀ x, t.dev.flash.read s.cfg x = Config.freeByte (s.env.draws + 1) x := by
  obtain ⟨t, hexec, hflight, hq, hdev⟩ := h.exec_running hf
  refine ⟨t, hexec, hflight, hq, fun x => ?_⟩
  rw [hdev, hlose]
  exact Memory.read_lose s.cfg _ x

/-- A command that loses the status registers completes, and leaves the array (log 10, log 32). -/
theorem Completing.status_free {i j : Instr} {s : State} {d : Draw} {ds : List Draw}
    (h : Completing i s d ds) (hf : s.flight = .running j)
    (hlose : ∀ n, s.dev.apply s.cfg .oracle n j = s.dev.loseStatus n) :
    ∃ t, exec i s = .next t ∧ t.flight = .clear ∧ t.dev.flash = s.dev.flash ∧
      t.dev.sr1 = Config.freeSr (s.env.draws + 1) 1 ∧ t.dev.sr2 = Config.freeSr (s.env.draws + 1) 2 := by
  obtain ⟨t, hexec, hflight, -, hdev⟩ := h.exec_running hf
  rw [hlose] at hdev
  exact ⟨t, hexec, hflight, by rw [hdev]; rfl, by rw [hdev]; rfl, by rw [hdev]; rfl⟩

/-- Settles O20, command by command: each open effect is a loss of the array or of the status registers. -/
theorem openEffectsAreFree : Obligations.OpenEffectsAreFree := by
  intro i j s d ds hc hf
  refine ⟨fun hopen => hc.flash_free hf fun n => ?_, fun hj hopen => hc.status_free hf fun n => ?_⟩
  · obtain ⟨a, rfl, ha⟩ | ⟨rfl, hr⟩ | ⟨a, p, rfl, hp⟩ := hopen
    · exact Device.eraseSector_open (ha.imp flashAccepts_of_not_ready eraseDefined_oracle_eq_false) n
    · exact Device.eraseChip_open (flashAccepts_of_not_ready hr) n
    · exact Device.program_open (hp.imp_left flashAccepts_of_not_ready) n
  · have lost := Device.writeStatus_open (d := s.dev) hopen n
    obtain ⟨b, rfl | rfl⟩ | ⟨b0, b1, rfl⟩ := hj
    · exact lost _ _
    · exact lost _ _
    · exact lost _ _

end Sys2Proof.Machine
end

section
/-! PROOFS. The tests at acceptance in their order (R304, R305, R308): NOT_PROBED, BAD_LENGTH, PROTECTED. -/
namespace Sys2Proof.Machine

/-! ### Which test refuses -/

/-- Before a probe a gated request is refused whatever else is wrong with it (R304, R308). -/
theorem refusalCause_of_unprobed {s : State} {r : Request} (hg : gated r = true) (hb : s.probed = false) :
    s.refusalCause r = some .notProbed := by
  simp [State.refusalCause, hg, hb]

/-- After a probe the length is tested first, then the `protected` flags (R308). -/
theorem refusalCause_of_probed {s : State} (r : Request) (hb : s.probed = true) :
    s.refusalCause r = if bufBytes < requestLength r then some .badLength
      else if anyProtected (targets s.sectorSize s.sectors.length r) 0 s.sectors then some .protectedSector
      else none := by
  simp [State.refusalCause, hb]

/-- After a probe a request too long for the buffer is refused for that (R305). -/
theorem refusalCause_of_badLength {s : State} {r : Request} (hb : s.probed = true)
    (hn : bufBytes < requestLength r) : s.refusalCause r = some .badLength := by
  rw [refusalCause_of_probed r hb, if_pos hn]

/-- Some sector that the request targets has the flag `protected` set (R202, R203, R221, R305). -/
def TargetsProtected (r : Request) (s : State) : Prop :=
  ∃ n, targeted (targets s.sectorSize s.sectors.length r) n = true ∧ protFlag s n = some .yes

theorem anyProtected_targets_iff {s : State} {r : Request} :
    anyProtected (targets s.sectorSize s.sectors.length r) 0 s.sectors = true ↔ TargetsProtected r s := by
  simp only [anyProtected_iff, Nat.zero_add]
  rfl

theorem refusalCause_of_protected {s : State} {r : Request} (hb : s.probed = true)
    (hn : requestLength r ≤ bufBytes) (hp : TargetsProtected r s) :
    s.refusalCause r = some .protectedSector := by
  rw [refusalCause_of_probed r hb, if_neg hn.not_gt, if_pos (anyProtected_targets_iff.mpr hp)]

theorem refusalCause_of_unprotected {s : State} {r : Request} (hb : s.probed = true)
    (hn : requestLength r ≤ bufBytes) (hp : ¬ TargetsProtected r s) : s.refusalCause r = none := by
  rw [refusalCause_of_probed r hb, if_neg hn.not_gt, if_neg (mt anyProtected_targets_iff.mp hp)]

/-- A program targets the sectors that its bytes touch (R221). -/
theorem targetsProtected_pageProgram {s : State} {a : Word} {p : List Byte} :
    TargetsProtected (.pageProgram a p) s ↔
      ∃ n, (a.toNat / s.sectorSize ≤ n ∧ n ≤ (a.toNat + max p.length 1 - 1) / s.sectorSize) ∧
        protFlag s n = some .yes := by
  simp only [TargetsProtected, targets, targeted, decide_eq_true_eq]

/-- A sector erase targets its own sector (R202). -/
theorem targetsProtected_eraseSector {s : State} {off : Word} :
    TargetsProtected (.eraseSector off) s ↔ protFlag s (off.toNat / s.sectorSize) = some .yes := by
  simp only [TargetsProtected, targets, targeted_single, exists_eq_left]

/-- Only a sector of the array has a flag. -/
theorem lt_length_of_protFlag {s : State} {n : Nat} {v : Tri} (h : protFlag s n = some v) :
    n < s.sectors.length := by
  obtain ⟨x, hx, -⟩ := Option.map_eq_some_iff.mp h
  exact (List.getElem?_eq_some_iff.mp hx).1

/-- A chip erase targets every sector of the array (R203). -/
theorem targetsProtected_eraseChip {s : State} :
    TargetsProtected .eraseChip s ↔ ∃ n, protFlag s n = some .yes := by
  refine exists_congr fun n => and_iff_right_of_imp fun hn => ?_
  simp [targets, targeted, (lt_length_of_protFlag hn).le]

/-! ### The step of acceptance -/

/-- A request that a test refuses ends in the step that accepts it, and nothing of the hardware and no flag
changes (R308). -/
theorem Submitting.step_refused {r : Request} {s : State} {x : Cause} (h : Submitting r s)
    (ht : s.tainted = false) (hc : s.refusalCause r = some x) :
    step s = .next { s with
      req := r, q := [], res := .protocol x, ph := .done, trace := [], host := s.hostAfter } := by
  rw [h.step_eq, accept_of_refusalCause (s := { s with host := s.hostAfter }) ht hc, State.raise_protocol]
  rfl

/-- The engine is at work on a queue that has been started. -/
theorem start_ph_ne_done {es : List Elem} (h : es ≠ []) (s : State) : (s.start es).ph ≠ .done :=
  begin_ph_ne_done (s := { s with q := es }) h

/-- A request that no test refuses is not ended by the step that accepts it. -/
theorem Submitting.ph_ne_done {r : Request} {s t : State} (h : Submitting r s) (ht : s.tainted = false)
    (hc : s.refusalCause r = none) (he : expansion s.cfg r ≠ []) (hs : step s = .next t) :
    t.ph ≠ .done := by
  cases hp : precondition s.sectorSize s.flashSize r with
  | true =>
    rw [h.step_start ht hc hp he] at hs
    cases hs
    exact start_ph_ne_done he _
  | false =>
    rw [h.step_eq, accept_of_not_precondition (s := { s with host := s.hostAfter }) ht hc hp] at hs
    cases hs

/-- A request that no test refuses and that keeps its precondition is at work on its expansion (R180). -/
theorem Submitting.begins {r : Request} {s : State} (h : Submitting r s) (ht : s.tainted = false)
    (hc : s.refusalCause r = none) (hp : precondition s.sectorSize s.flashSize r = true)
    (he : expansion s.cfg r ≠ []) :
    ∃ t, step s = .next t ∧ t.q = expansion s.cfg r ∧ t.req = r ∧ t.ph ≠ .done :=
  ⟨_, h.step_start ht hc hp he, State.start_q .., State.start_req .., start_ph_ne_done he _⟩

/-- Settles O29: the gated requests fail the first test, the others pass it. -/
theorem probedGate : Obligations.ProbedGate := by
  intro r s hsub ht hb
  refine ⟨fun hr => ?_, fun hr => ?_, fun hr => ?_⟩
  · have hg : gated r = true := by obtain ⟨off, rfl⟩ | rfl | ⟨a, p, rfl⟩ := hr <;> rfl
    exact ⟨_, hsub.step_refused ht (refusalCause_of_unprobed hg hb), rfl, rfl, rfl, rfl, ht, hb, rfl, rfl,
      rfl, rfl⟩
  · have hc (hg : gated r = false) (hn : requestLength r = 0)
        (htarget : targets s.sectorSize s.sectors.length r = none) : s.refusalCause r = none := by
      rw [refusalCause_of_untargeted hg htarget, hn]
      rfl
    obtain rfl | rfl | rfl | ⟨n, rfl⟩ | ⟨n, rfl⟩ := hr <;>
      exact hsub.begins ht (hc rfl rfl rfl) rfl (by simp [expansion])
  · obtain ⟨id, a, w, d, p, n, rfl, hn⟩ | ⟨p, rfl, hp⟩ := hr
    · exact ⟨_, hsub.step_eq.trans
        (accept_encode (s := { s with host := s.hostAfter }) ht id a w d p hn), rfl⟩
    · exact ⟨_, hsub.step_eq.trans (accept_stage (s := { s with host := s.hostAfter }) ht hp), rfl⟩

/-- Settles O30: each request by the first of the three tests that refuses it. -/
theorem acceptanceTestsInOrder : Obligations.AcceptanceTestsInOrder := by
  intro s ht refused
  have refusal {r : Request} {x : Cause} (hsub : Submitting r s) (hc : s.refusalCause r = some x) :
      ∃ t, step s = .next t ∧ refused t x :=
    ⟨_, hsub.step_refused ht hc, rfl, rfl, rfl, rfl, ht⟩
  refine ⟨?_, fun off hsub hb => ⟨fun hp => ?_, fun hp t hs => ?_⟩,
    fun hsub hb => ⟨fun hp => ?_, fun hp => ?_⟩⟩
  · intro a p hsub touched t hs
    have here {x : Cause} (hc : s.refusalCause (.pageProgram a p) = some x) : refused t x := by
      obtain ⟨u, hu, hx⟩ := refusal hsub hc
      rw [hs] at hu
      cases hu
      exact hx
    refine ⟨fun hb => here (refusalCause_of_unprobed rfl hb),
      fun hb hn => here (refusalCause_of_badLength hb hn),
      fun hb hn hp => here (refusalCause_of_protected hb hn (targetsProtected_pageProgram.mpr hp)),
      fun hb hn hp => hsub.ph_ne_done ht
        (refusalCause_of_unprotected hb hn (mt targetsProtected_pageProgram.mp hp)) ?_ hs⟩
    simp only [expansion]
    split <;> simp
  · exact refusal hsub
      (refusalCause_of_protected hb (Nat.zero_le _) (targetsProtected_eraseSector.mpr hp))
  · exact hsub.ph_ne_done ht (refusalCause_eraseSector hb hp) (by simp [expansion]) hs
  · exact refusal hsub
      (refusalCause_of_protected hb (Nat.zero_le _) (targetsProtected_eraseChip.mpr hp))
  · have hc : s.refusalCause .eraseChip = none :=
      refusalCause_of_unprotected hb (Nat.zero_le _) (mt targetsProtected_eraseChip.mp hp)
    have he : expansion s.cfg .eraseChip ≠ [] := by simp [expansion]
    exact ⟨_, hsub.step_start ht hc rfl he, start_ph_ne_done he _⟩

end Sys2Proof.Machine
end

section
/-! PROOFS. Liveness (R371): each step of the engine ends the operation or leaves it fewer steps to take. The
measure is the bound of the elements queued less the steps that the head of the queue has had. -/
namespace Sys2Proof.Machine

/-! ### The measure -/

/-- The steps a queue takes at most; the manufacturer step, with the continuation that it puts in the place of
what stands behind it (R243). -/
def queueBound (c : Cfg) (req : Request) : List Elem → Nat
  | [] => 0
  | .mfr :: _ => 1 + continuationBound c req
  | .ins i :: es => elemBound c (.ins i) + queueBound c req es
  | .poll pk n :: es => elemBound c (.poll pk n) + queueBound c req es
  | .illegal w :: es => elemBound c (.illegal w) + queueBound c req es

/-- The steps the head of the queue has had (R182 to R184, R164). -/
def headTaken (s : State) : Nat :=
  match s.ph, s.q with
  | .buf, _ => 1 + s.k
  | .issue, .ins i :: _ => 1 + divUp i.payload.length 4
  | .wait, .ins i :: _ => 1 + divUp i.payload.length 4 + 1 + s.cnt
  | .wait, _ => s.cnt
  | _, _ => 0

/-- The steps the operation in hand has still to take at most, counted from where its head stands. -/
def stepsLeft (s : State) : Nat := queueBound s.cfg s.req s.q - headTaken s

theorem elemsBound_cons (c : Cfg) (e : Elem) (es : List Elem) :
    elemsBound c (e :: es) = elemBound c e + elemsBound c es := rfl

theorem queueBound_le (c : Cfg) (req : Request) (es : List Elem) :
    queueBound c req es ≤ elemsBound c es + continuationBound c req := by
  induction es with
  | nil => exact Nat.zero_le _
  | cons e es ih =>
    rw [elemsBound_cons]
    cases e <;> simp only [queueBound, elemBound] <;> omega

/-- The measure is within the bound of R371. -/
theorem stepsLeft_le_stepsBound (s : State) : stepsLeft s ≤ stepsBound s :=
  (Nat.sub_le ..).trans (queueBound_le ..)

/-- No continuation holds a manufacturer step, so its bound is that of its elements (R245). -/
theorem queueBound_continuation_le (c : Cfg) (req : Request) (b : Bucket) :
    queueBound c req (continuation req b) ≤ continuationBound c req := by
  have heq : queueBound c req (continuation req b) = elemsBound c (continuation req b) := by
    cases req <;> cases b <;> rfl
  rw [heq]
  cases b
  · exact Nat.le_max_left ..
  · exact Nat.le_max_right ..

/-! ### Where the engine stands -/

theorem headTaken_addr {s : State} (hp : s.ph = .addr) : headTaken s = 0 := by
  simp [headTaken, hp]

theorem headTaken_mfr {s : State} (hp : s.ph = .mfr) : headTaken s = 0 := by
  simp [headTaken, hp]

theorem headTaken_buf {s : State} (hp : s.ph = .buf) : headTaken s = 1 + s.k := by
  simp [headTaken, hp]

theorem headTaken_issue {s : State} {i : Instr} {es : List Elem} (hp : s.ph = .issue)
    (hq : s.q = .ins i :: es) : headTaken s = 1 + divUp i.payload.length 4 := by
  simp [headTaken, hp, hq]

/-- The steps of an element before its wait (R182 to R184). -/
def stepsBeforeWait : Elem → Nat
  | .ins i => 1 + divUp i.payload.length 4 + 1
  | .poll _ _ | .mfr | .illegal _ => 0

theorem headTaken_wait {s : State} {e : Elem} {es : List Elem} (hp : s.ph = .wait) (hq : s.q = e :: es) :
    headTaken s = stepsBeforeWait e + s.cnt := by
  cases e <;> simp [headTaken, stepsBeforeWait, hp, hq]

/-- An element with a wait takes the steps before it, its poll reads, and the step that finds the count
reached (R371). -/
theorem queueBound_of_waitOf {c : Cfg} {req : Request} {e : Elem} {es : List Elem} {pk : Signal} {n : Nat}
    (h : waitOf c e = some (pk, n)) :
    queueBound c req (e :: es) = stepsBeforeWait e + n + 1 + queueBound c req es := by
  cases e with
  | ins i => cases h; rfl
  | poll => cases h; simp [queueBound, elemBound, stepsBeforeWait]
  | mfr | illegal => cases h

/-- The engine at work in a phase of the head of its queue (R21, R49). -/
inductive AtWork (s : State) : Prop where
  | addr {i : Instr} {es : List Elem} (hp : s.ph = .addr) (hq : s.q = .ins i :: es)
      (ha : (i.ins s.cfg).hasAddr = true)
  | buf {i : Instr} {es : List Elem} (hp : s.ph = .buf) (hq : s.q = .ins i :: es)
      (hk : s.k < divUp i.payload.length 4)
  | issue {i : Instr} {es : List Elem} (hp : s.ph = .issue) (hq : s.q = .ins i :: es)
      (hf : s.flight = .clear)
  | wait {e : Elem} {es : List Elem} {pk : Signal} {n : Nat} (hp : s.ph = .wait) (hq : s.q = e :: es)
      (hw : waitOf s.cfg e = some (pk, n)) (hn : s.cnt ≤ n)
  | mfr {es : List Elem} (hp : s.ph = .mfr) (hq : s.q = .mfr :: es)
      (hc : continuation s.req .generic ≠ [])

/-- In the engine's turn a state in control stands in one of the five phases. -/
theorem ControlOk.atWork {s : State} (h : ControlOk s) (ht : engineTurn s) : AtWork s := by
  obtain ⟨hidle, hdone⟩ := ht
  have hph := h.phase
  unfold phaseOk at hph
  split at hph
  next hp _ => exact absurd hp hidle
  next hp _ => exact absurd hp hdone
  next hp hq => exact .mfr hp hq (by simpa [elemOk] using List.all_eq_true.mp h.elems .mfr (by simp [hq]))
  next hp hq => exact .addr hp hq hph
  next hp hq => exact .buf hp hq (of_decide_eq_true hph)
  next hp hq => exact .issue hp hq (h.flight_clear (.inr (.inr (.inl hp))))
  next hp hq => exact .wait hp hq rfl (of_decide_eq_true hph)
  next hp hq => exact .wait hp hq rfl (of_decide_eq_true hph)
  next => cases hph

/-- The head of the queue has a step left. -/
theorem AtWork.headTaken_lt {s : State} (h : AtWork s) :
    headTaken s < queueBound s.cfg s.req s.q := by
  cases h with
  | addr hp hq => rw [headTaken_addr hp, hq, queueBound_of_waitOf rfl]; omega
  | buf hp hq hk => rw [headTaken_buf hp, hq, queueBound_of_waitOf rfl]; simp only [stepsBeforeWait]; omega
  | issue hp hq =>
    rw [headTaken_issue hp hq, hq, queueBound_of_waitOf rfl]
    simp only [stepsBeforeWait]
    omega
  | wait hp hq hw hn => rw [headTaken_wait hp hq, hq, queueBound_of_waitOf hw]; omega
  | mfr hp hq => rw [headTaken_mfr hp, hq, queueBound]; omega

/-! ### Each step comes nearer to DONE -/

/-- The operation has ended, or it has fewer steps left. -/
def Nearer (s t : State) : Prop := t.ph = .done ∨ engineTurn t ∧ stepsLeft t < stepsLeft s

/-- A step of the head that is not its last. -/
theorem nearer_of_same_head {s t : State} (hleft : headTaken s < queueBound s.cfg s.req s.q)
    (hf : EngineFrame s t) (ht : engineTurn t) (hq : t.q = s.q) {n : Nat} (hn : headTaken t = n)
    (hlt : headTaken s < n) : Nearer s t := by
  refine .inr ⟨ht, ?_⟩
  rw [stepsLeft, stepsLeft, hf.cfg, hf.req, hq, hn]
  omega

theorem begin_engineTurn {s : State} (hq : s.q ≠ []) : engineTurn s.begin := by
  obtain hp | hp | hp | hp | ⟨hp, -⟩ := begin_ph_cases hq <;> simp [engineTurn, hp]

/-- The beginning of a queue whose bound is below what was left. -/
theorem nearer_of_begin {s u : State} (hf : EngineFrame s u.begin) (hq : u.q ≠ [])
    (hlt : queueBound s.cfg s.req u.q < stepsLeft s) : Nearer s u.begin := by
  refine .inr ⟨begin_engineTurn hq, (Nat.sub_le ..).trans_lt ?_⟩
  rwa [hf.cfg, hf.req, State.begin_q]

theorem nearer_addrStep {s : State} {i : Instr} {es : List Elem} (hp : s.ph = .addr)
    (hq : s.q = .ins i :: es) (hleft : headTaken s < queueBound s.cfg s.req s.q) :
    Nearer s (s.addrStep (i.ins s.cfg)) := by
  have hw := transacted_writeReg .addr (i.ins s.cfg).addr s
  have hf := frame_addrStep (i.ins s.cfg) s
  obtain ⟨s1, hs, he⟩ | ⟨s1, hs, ⟨-, he⟩ | ⟨-, he⟩⟩ := addrStep_cases (i.ins s.cfg) s <;>
    rw [he] at hf ⊢ <;> obtain rfl := snd_of_writeReg hs
  · exact .inl rfl
  · refine nearer_of_same_head hleft hf (by simp [engineTurn]) hw.q (headTaken_buf rfl) ?_
    rw [headTaken_addr hp]
    exact Nat.succ_pos _
  · refine nearer_of_same_head hleft hf (by simp [engineTurn]) hw.q (headTaken_issue rfl (hw.q.trans hq)) ?_
    rw [headTaken_addr hp]
    omega

theorem nearer_bufStep {s : State} {i : Instr} {es : List Elem} (hp : s.ph = .buf)
    (hq : s.q = .ins i :: es) (hleft : headTaken s < queueBound s.cfg s.req s.q) (w : Word) :
    Nearer s (s.bufStep (i.ins s.cfg) w) := by
  have hw := transacted_writeReg (.buf s.k) w s
  have hf := frame_bufStep (i.ins s.cfg) w s
  obtain ⟨s1, hs, he⟩ | ⟨s1, hs, ⟨hk, he⟩ | ⟨-, he⟩⟩ := bufStep_cases (i.ins s.cfg) w s <;>
    rw [he] at hf ⊢ <;> obtain rfl := snd_of_writeReg hs
  · exact .inl rfl
  · refine nearer_of_same_head hleft hf (by simp [engineTurn]) hw.q (headTaken_issue rfl (hw.q.trans hq)) ?_
    rw [headTaken_buf hp, ← Instr.ins_payload s.cfg, ← hk]
    omega
  · refine nearer_of_same_head hleft hf (by simp [engineTurn, hp]) hw.q (headTaken_buf (hw.ph.trans hp)) ?_
    rw [headTaken_buf hp]
    exact Nat.lt_succ_self (1 + s.k)

theorem nearer_issueStep {s : State} {i : Instr} {es : List Elem} (hp : s.ph = .issue)
    (hq : s.q = .ins i :: es) (hleft : headTaken s < queueBound s.cfg s.req s.q) :
    Nearer s (s.issueStep (i.ins s.cfg)) := by
  have hw := transacted_writeReg .cmd (encIns s.cfg (i.ins s.cfg)) s
  have hf := frame_issueStep (i.ins s.cfg) s
  obtain ⟨s1, hs, he⟩ | ⟨s1, hs, he⟩ := issueStep_cases (i.ins s.cfg) s <;>
    rw [he] at hf ⊢ <;> obtain rfl := snd_of_writeReg hs
  · exact .inl rfl
  · refine nearer_of_same_head hleft hf (by simp [engineTurn]) hw.q (headTaken_wait rfl (hw.q.trans hq)) ?_
    rw [headTaken_issue hp hq, stepsBeforeWait]
    omega

/-- The end of an element that has a wait (R185). -/
theorem nearer_finishHead {s s1 : State} (hf : EngineFrame s s1.finishHead)
    (hlt : queueBound s.cfg s.req s1.q.tail < stepsLeft s) : Nearer s s1.finishHead := by
  obtain ⟨hq, -⟩ | ⟨hq, he⟩ := finishHead_cases s1
  · exact .inl (finishHead_of_last hq).1
  · rw [he] at hf ⊢
    exact nearer_of_begin hf hq hlt

theorem nearer_waitStep {s : State} {e : Elem} {es : List Elem} {pk : Signal} {n : Nat} (hp : s.ph = .wait)
    (hq : s.q = e :: es) (hw : waitOf s.cfg e = some (pk, n)) (hn : s.cnt ≤ n)
    (hleft : headTaken s < queueBound s.cfg s.req s.q) : Nearer s (s.waitStep pk n) := by
  have hr := transacted_readReg (pollReg pk) s
  have hf := frame_waitStep pk n s
  obtain ⟨-, he⟩ | ⟨-, v, s1, hs, he⟩ | ⟨-, v, s1, hs, ⟨-, he⟩ | ⟨-, he⟩⟩ := waitStep_cases pk n s <;>
    rw [he] at hf ⊢
  · exact .inl rfl
  · exact .inl rfl
  · obtain rfl := snd_of_readReg hs
    refine nearer_of_same_head hleft hf (by simp [engineTurn, hp]) hr.q
      (headTaken_wait (hr.ph.trans hp) (hr.q.trans hq)) ?_
    rw [headTaken_wait hp hq, State.pollAgain_cnt, hr.cnt]
    omega
  · obtain rfl := snd_of_readReg hs
    refine nearer_finishHead hf ?_
    rw [hr.q, stepsLeft, headTaken_wait hp hq, hq, queueBound_of_waitOf hw, List.tail_cons]
    omega

theorem nearer_mfrRead {s : State} {es : List Elem} (hp : s.ph = .mfr) (hq : s.q = .mfr :: es)
    (hc : continuation s.req .generic ≠ []) : Nearer s s.mfrRead := by
  have hf := frame_mfrRead s
  obtain he | ⟨b, he⟩ := mfrRead_cases s <;> rw [he] at hf ⊢
  · exact .inl rfl
  · refine nearer_of_begin hf ((continuation_ok s.req b).2 hc) ?_
    rw [stepsLeft, headTaken_mfr hp, hq, queueBound, Nat.sub_zero, Nat.one_add]
    exact Nat.lt_succ_of_le (queueBound_continuation_le s.cfg s.req b)

/-- The engine at work has a step, whatever is answered, and it comes nearer to DONE (R371). -/
theorem AtWork.step_nearer {s : State} (h : AtWork s) : ∃ t, step s = .next t ∧ Nearer s t := by
  have hleft := h.headTaken_lt
  cases h with
  | addr hp hq ha => exact ⟨_, step_addr hq hp ha, nearer_addrStep hp hq hleft⟩
  | buf hp hq hk => exact ⟨_, step_buf hq hp hk, nearer_bufStep hp hq hleft _⟩
  | issue hp hq hf =>
    exact ⟨_, (stepRunsTheHead s _ _ hq (.inr (.inr (.inl hp)))).trans (exec_issue hp hf),
      nearer_issueStep hp hq hleft⟩
  | wait hp hq hw hn => exact ⟨_, step_wait hp hq hw, nearer_waitStep hp hq hw hn hleft⟩
  | mfr hp hq hc => exact ⟨_, step_mfr hp hq hc, nearer_mfrRead hp hq hc⟩

/-! ### The bound -/

/-- From the engine's turn DONE is reached within the measure. -/
theorem ControlOk.reaches_done {m : Nat} {s : State} (h : ControlOk s) (hturn : engineTurn s)
    (hm : stepsLeft s ≤ m) : ∃ n ≤ m, ∃ t, Sys2Proof.core.run n s = .next t ∧ t.ph = .done := by
  induction m generalizing s with
  | zero => exact absurd hm (Nat.sub_pos_of_lt (h.atWork hturn).headTaken_lt).not_ge
  | succ m ih =>
    obtain ⟨u, hstep, hdone | ⟨hturn', hlt⟩⟩ := (h.atWork hturn).step_nearer
    · exact ⟨1, by omega, u, run_of_step Sys2Proof.core hstep 0, hdone⟩
    · obtain ⟨n, hn, t, hrun, ht⟩ := ih (controlOk_step h hstep) hturn' (by omega)
      exact ⟨n + 1, by omega, t, (run_of_step Sys2Proof.core hstep n).trans hrun, ht⟩

/-- Settles O43: the measure is within the bound of R371, and every step of the engine lessens it. -/
theorem operationsEndWithinBound : Obligations.OperationsEndWithinBound := by
  intro s hinv hturn
  obtain ⟨-, hcontrol⟩ := inv_iff.mp hinv
  obtain ⟨t, hstep, -⟩ := (hcontrol.atWork hturn).step_nearer
  exact ⟨⟨t, hstep⟩, hcontrol.reaches_done hturn (stepsLeft_le_stepsBound s)⟩

end Sys2Proof.Machine
end
